-- ==== Sys2Proof/Word.lean ====
section
/-! DEFINITION. The word types of the block and the arithmetic primitives of 00_scope.md rule R6. -/

namespace Sys2Proof

/-- A state word, an output, a key element, a cap: 32 bits (00_scope.md rule R4, `W`). -/
abbrev Word32 := BitVec 32

/-- An element of the word list, five 8-bit letter codes, the first letter in bits 39:32
(20_memory.md rule R45).  The block only copies it, compares it and asks whether it is excluded (R8). -/
abbrev Word := BitVec 40

/-- A command word `cmd[39:0]` (30_encoding.md rule R60). -/
abbrev Cmd := BitVec 40

/-- `add32` of rule R6: addition modulo 2^32. -/
abbrev add32 (a b : Word32) : Word32 := a + b

/-- `sub32` of rule R6: subtraction modulo 2^32, never negative. -/
abbrev sub32 (a b : Word32) : Word32 := a - b

/-- `mul32` of rule R6: the low 32 bits of the product. -/
abbrev mul32 (a b : Word32) : Word32 := a * b

/-- `shl32` of rule R6: bits shifted past bit 31 are lost. -/
abbrev shl32 (a : Word32) (n : Nat) : Word32 := a <<< n

/-- `shr32` of rule R6: logical, zeros enter at bit 31. -/
abbrev shr32 (a : Word32) (n : Nat) : Word32 := a >>> n

/-- `xor32` of rule R6. -/
abbrev xor32 (a b : Word32) : Word32 := a ^^^ b

/-- `and32` of rule R6. -/
abbrev and32 (a b : Word32) : Word32 := a &&& b

/-- `or32` of rule R6. -/
abbrev or32 (a b : Word32) : Word32 := a ||| b

end Sys2Proof
end

