-- ==== Sys2Proof/Syntax.lean ====
section
/-! DEFINITION. The commands of the block: one constructor per row of the opcode table (30_encoding.md rule R63),
the two fields and the two formats of a command word (R60, R61), and the assembler's lines (R67, R68). -/

namespace Sys2Proof

/-- The eight commands (30_encoding.md rule R63).  A format-I command carries its 32-bit operand (R62). -/
inductive Instr where
  /-- `SEEDI imm32`, 40_seed.md rule R82. -/
  | seedi (imm : Word32)
  /-- `KEYCLR`, 40_seed.md rule R83. -/
  | keyclr
  /-- `KEYPUSH imm32`, 40_seed.md rule R84. -/
  | keypush (imm : Word32)
  /-- `SEEDA`, 40_seed.md rule R86. -/
  | seeda
  /-- `NEXT32`, 41_generate.md rule R105. -/
  | next32
  /-- `NEXT31`, 41_generate.md rule R106. -/
  | next31
  /-- `SETCAP imm32`, 42_draw.md rule R120. -/
  | setcap (imm : Word32)
  /-- `DRAW`, 42_draw.md rule R121. -/
  | draw
deriving DecidableEq, Repr

/-- The two formats of rule R61. -/
inductive Format where
  /-- Format `O`: opcode only, `imm` must be zero. -/
  | o
  /-- Format `I`: opcode and a 32-bit operand of any value. -/
  | i
deriving DecidableEq, Repr

/-- The two fields that cover a command word (rule R60). -/
structure Fields where
  /-- `op`, bits 39:32. -/
  op : BitVec 8
  /-- `imm`, bits 31:0. -/
  imm : Word32
deriving DecidableEq, Repr

/-- One line of assembler source: the mnemonics of rule R67 with their operand as the number written, and the
pseudo-instructions of rule R68. -/
inductive AsmLine where
  | seedi (n : Nat)
  | keyclr
  | keypush (n : Nat)
  | seeda
  | next32
  | next31
  | setcap (n : Nat)
  | draw
  /-- `SEEDD d`, `d` a signed integer of any size. -/
  | seedd (d : Int)
  /-- `SEEDARR [k0, k1, ...]`, a sequence of integers. -/
  | seedarr (ks : List Int)
  /-- `NOCAP`. -/
  | nocap
deriving DecidableEq, Repr

end Sys2Proof
end

