-- ==== Sys2Proof/WellFormed.lean ====
section
/-! DEFINITION. Well-formedness: of the two fields of a command word (30_encoding.md rules R61, R64) and of a line
of assembler source (rules R67, R68).  An `Instr` is well formed by its type: its operand is 32 bits and every
32-bit operand is legal (R62). -/

namespace Sys2Proof

/-- The format an assigned opcode has, `none` for the 248 unassigned opcode values (rules R63, R64). -/
def opFormat (op : BitVec 8) : Option Format :=
  if op = 0x01#8 then some .i
  else if op = 0x02#8 then some .o
  else if op = 0x03#8 then some .i
  else if op = 0x04#8 then some .o
  else if op = 0x10#8 then some .o
  else if op = 0x11#8 then some .o
  else if op = 0x20#8 then some .i
  else if op = 0x21#8 then some .o
  else none

/-- First check of rule R64: the opcode is assigned. -/
def Fields.opAssigned (f : Fields) : Bool := (opFormat f.op).isSome

/-- Second check of rule R64: a format-O command has `imm = 0` (R61). -/
def Fields.immAllowed (f : Fields) : Bool := opFormat f.op != some .o || f.imm == 0#32

/-- The fields are those of a legal command word (rule R64). -/
def Fields.wf (f : Fields) : Bool := f.opAssigned && f.immAllowed

/-- An assembler operand is a number in `[0, 2^32)` (rule R67). -/
def operandInRange (n : Nat) : Bool := decide (n < 2 ^ 32)

/-- A line the assembler accepts: operands in range (R67), no empty `SEEDARR` (R68). -/
def AsmLine.wf : AsmLine → Bool
  | .seedi n => operandInRange n
  | .keyclr => true
  | .keypush n => operandInRange n
  | .seeda => true
  | .next32 => true
  | .next31 => true
  | .setcap n => operandInRange n
  | .draw => true
  | .seedd _ => true
  | .seedarr ks => !ks.isEmpty
  | .nocap => true

end Sys2Proof
end

