-- ==== Sys2Proof/Decode.lean ====
section
/-! DEFINITION. Decoding and encoding of command words (30_encoding.md rules R60 to R66), and the opcode map of
rule R63 as a table of masks and matches.  The decoder is total: a word is exactly one command or illegal, with the
reason by name (R64). -/

namespace Sys2Proof

/-- Why a command word is illegal (rule R64). -/
inductive Illegal where
  /-- `op` is none of the eight assigned values. -/
  | unassignedOp (op : BitVec 8)
  /-- A format-O opcode with a non-zero `imm`. -/
  | nonzeroImm (op : BitVec 8) (imm : Word32)
deriving DecidableEq, Repr

/-- The two fields of a command word: `op = cmd[39:32]`, `imm = cmd[31:0]` (rules R60, R62). -/
def fields (w : Cmd) : Fields := ⟨w.extractLsb' 32 8, w.extractLsb' 0 32⟩

/-- A format-O command: the given command if `imm = 0`, else illegal (rules R61, R64). -/
def formatO (f : Fields) (i : Instr) : Except Illegal Instr :=
  if f.imm = 0#32 then .ok i else .error (.nonzeroImm f.op f.imm)

/-- The command the two fields select (rules R61 to R64). -/
def decodeFields (f : Fields) : Except Illegal Instr :=
  if f.op = 0x01#8 then .ok (.seedi f.imm)
  else if f.op = 0x02#8 then formatO f .keyclr
  else if f.op = 0x03#8 then .ok (.keypush f.imm)
  else if f.op = 0x04#8 then formatO f .seeda
  else if f.op = 0x10#8 then formatO f .next32
  else if f.op = 0x11#8 then formatO f .next31
  else if f.op = 0x20#8 then .ok (.setcap f.imm)
  else if f.op = 0x21#8 then formatO f .draw
  else .error (.unassignedOp f.op)

/-- The decoder: total on every 40-bit word (rule R64). -/
def decode (w : Cmd) : Except Illegal Instr := decodeFields (fields w)

/-- The opcode of a command (rule R63). -/
def opcode : Instr → BitVec 8
  | .seedi _ => 0x01#8
  | .keyclr => 0x02#8
  | .keypush _ => 0x03#8
  | .seeda => 0x04#8
  | .next32 => 0x10#8
  | .next31 => 0x11#8
  | .setcap _ => 0x20#8
  | .draw => 0x21#8

/-- The `imm` field of a command: its operand, or zero for format O (rules R61, R67). -/
def immField : Instr → Word32
  | .seedi imm => imm
  | .keyclr => 0#32
  | .keypush imm => imm
  | .seeda => 0#32
  | .next32 => 0#32
  | .next31 => 0#32
  | .setcap imm => imm
  | .draw => 0#32

/-- The encoding of a command, `{op, imm}` (rules R60, R67). -/
def encode (i : Instr) : Cmd := opcode i ++ immField i

/-- One row of the opcode map of rule R63: a word `w` selects the row iff `w and mask = match`. -/
structure OpcodeRow where
  mnemonic : String
  format : Format
  pattern : Cmd
  mask : Cmd
deriving DecidableEq, Repr

/-- `w` selects the row (rule R63). -/
def OpcodeRow.selects (r : OpcodeRow) (w : Cmd) : Bool := w &&& r.mask == r.pattern

/-- The row of a command in the opcode map. -/
def opcodeRow : Instr → OpcodeRow
  | .seedi _ => ⟨"SEEDI", .i, 0x0100000000#40, 0xFF00000000#40⟩
  | .keyclr => ⟨"KEYCLR", .o, 0x0200000000#40, 0xFFFFFFFFFF#40⟩
  | .keypush _ => ⟨"KEYPUSH", .i, 0x0300000000#40, 0xFF00000000#40⟩
  | .seeda => ⟨"SEEDA", .o, 0x0400000000#40, 0xFFFFFFFFFF#40⟩
  | .next32 => ⟨"NEXT32", .o, 0x1000000000#40, 0xFFFFFFFFFF#40⟩
  | .next31 => ⟨"NEXT31", .o, 0x1100000000#40, 0xFFFFFFFFFF#40⟩
  | .setcap _ => ⟨"SETCAP", .i, 0x2000000000#40, 0xFF00000000#40⟩
  | .draw => ⟨"DRAW", .o, 0x2100000000#40, 0xFFFFFFFFFF#40⟩

/-- The complete opcode map of rule R63, in the table's order. -/
def opcodeMap : List OpcodeRow :=
  [opcodeRow (.seedi 0#32), opcodeRow .keyclr, opcodeRow (.keypush 0#32), opcodeRow .seeda,
    opcodeRow .next32, opcodeRow .next31, opcodeRow (.setcap 0#32), opcodeRow .draw]

/-- The command read from an instruction of `nbits` bits whose bits are `w`, numbered as the opcode table numbers
them.  The block has one word of 40 bits with bit 0 the least significant (R60) and no byte order (20_memory.md
rule R46), so the number is the word.  A value that does not fit is no command word (log 10). -/
def decodeTableWord (nbits w : Nat) : Option Instr :=
  if nbits ≤ 40 ∧ w < 2 ^ nbits then (decode (BitVec.ofNat 40 w)).toOption else none

end Sys2Proof
end

