-- ==== Sys2Proof/Config.lean ====
section
/-! DEFINITION. The constants the source fixes (00_scope.md rule R4) and the parameters it leaves open (rule R5).
The open ones are opaque constants: no proof can see their values (log 1). -/

namespace Sys2Proof.Config

/-- `INIT_MULT`, multiplier of integer seeding (R4, R80). -/
def initMult : Word32 := 0x6C078965#32

/-- `ARR_SEED`, the constant given to the integer initialiser by array seeding (R4, R85). -/
def arrSeed : Word32 := 0x012BD6AA#32

/-- `ARR_MULT1`, multiplier of the first array-seeding pass (R4, R85). -/
def arrMult1 : Word32 := 0x0019660D#32

/-- `ARR_MULT2`, multiplier of the second array-seeding pass (R4, R85). -/
def arrMult2 : Word32 := 0x5D588B65#32

/-- `ARR_FORCE`, the value forced into `MT[0]` by array seeding (R4, R85). -/
def arrForce : Word32 := 0x80000000#32

/-- `UPPER`, mask of the upper bit in the twist (R4, R100). -/
def upper : Word32 := 0x80000000#32

/-- `LOWER`, mask of the lower 31 bits in the twist (R4, R100). -/
def lower : Word32 := 0x7FFFFFFF#32

/-- `MATRIX_A`, the twist's conditional constant (R4, R100). -/
def matrixA : Word32 := 0x9908B0DF#32

/-- `TEMPER_B`, mask of the shift-7 stage (R4, R102). -/
def temperB : Word32 := 0x9D2C5680#32

/-- `TEMPER_C`, mask of the shift-15 stage (R4, R102). -/
def temperC : Word32 := 0xEFC60000#32

/-- The word list before rule R5's bound `L < 2^32` is applied.  No body: any list at all (log 1). -/
opaque wordListRaw : List Word

/-- `WL`, the platform's word list (R5, R43): any list with fewer than 2^32 elements. -/
def wordList : List Word := wordListRaw.take 4294967295

/-- The members of the exclusion set `EX` (R5, R44).  No body (log 1). -/
opaque exclusions : List Word

/-- `KMAX - 1`.  No body: any natural number (log 1). -/
opaque keyCapacityPred : Nat

/-- `KMAX`, the capacity of the key buffer: any natural number with `KMAX >= 1` (R5, R14). -/
def keyCapacity : Nat := keyCapacityPred + 1

end Sys2Proof.Config
end

