-- ==== Sys2Proof/Machine/State.lean ====
section
/-! DEFINITION. The architectural state (10_state.md), the reasons a step can stop, and the state after reset
(10_state.md rule R27). -/

namespace Sys2Proof.Machine

open Sys2Proof

/-- The state array `MT[0..623]` (10_state.md rule R10). -/
abbrev Mt := Vector Word32 624

/-- `CURSOR` (10_state.md rule R11): the sentinel, or the index of the next unconsumed word. -/
inductive Cursor where
  /-- `UNINIT`, from reset until the first completed seeding. -/
  | uninit
  /-- An index `0..624`, where 624 means that the array must be twisted before a word is read. -/
  | index (i : Fin 625)
deriving DecidableEq, Repr

/-- A constructed generator: the state array and a cursor in `[0, 624]` (10_state.md rule R12). -/
structure Gen where
  mt : Mt
  cursor : Fin 625
deriving DecidableEq, Repr

/-- `PHASE` (10_state.md rule R20).  Its bit encoding is the implementation's and not observable. -/
inductive Phase where
  /-- The only phase in which a command is accepted. -/
  | idle
  /-- The warm-up of a running `DRAW`. -/
  | warm
  /-- A running `DRAW` fills the candidate. -/
  | fill
  /-- A running `DRAW` judges the candidate. -/
  | check
  /-- Entered by a fault, left only by reset. -/
  | halt
deriving DecidableEq, Repr

/-- The value of `FAULT` (10_state.md rule R21, 60_exceptions.md rule R150).  These faults are the block's own: a
step that raises one answers a NEXT state (rule R158). -/
inductive FaultKind where
  /-- Code 0: no fault since reset. -/
  | none
  /-- Code 1, rule R151. -/
  | illegalCommand
  /-- Code 2, rule R152. -/
  | notSeeded
  /-- Code 3, rule R153. -/
  | invalidSeed
  /-- Code 4, rule R154. -/
  | emptyWordList
  /-- Code 5, rule R155. -/
  | drawExhausted
deriving DecidableEq, Repr

/-- The open parameters of the step relation (00_scope.md rule R5): not state by 10_state.md rule R25, and written
by no step.  They stand here so that a statement about every state speaks of every platform (log 1). -/
structure Platform where
  /-- `WL`; its length is `L` (20_memory.md rule R43). -/
  wl : List Word
  /-- The members of the exclusion set (20_memory.md rule R44). -/
  ex : List Word
  /-- `KMAX` (10_state.md rule R14). -/
  kmax : Nat
deriving DecidableEq, Repr

/-- The state of the block (10_state.md rules R10 to R21), its platform's constants, and the host's side of the
input ports.  `STATUS` (R22) is a view and stands in Flags.lean. -/
structure State where
  /-- `MT`, R10. -/
  mt : Mt
  /-- `CURSOR`, R11. -/
  cursor : Cursor
  /-- `RES`, R13. -/
  res : Word32
  /-- `RESV`, R13. -/
  resv : Bool
  /-- `KEY[0..KEYLEN-1]`, element 0 first, R14.  `KEYLEN` is its length (log 5). -/
  key : List Word32
  /-- `CAP`, R15; 0 means no cap. -/
  cap : Word32
  /-- `ATT`, R16. -/
  att : Word32
  /-- `IDX[0..3]`, R17. -/
  idx : Vector (BitVec 31) 4
  /-- `QW[0..3]`, R18. -/
  qw : Vector Word 4
  /-- `QVALID`, R19. -/
  qvalid : Bool
  /-- `PHASE`, R20. -/
  phase : Phase
  /-- `SLOT`, R20. -/
  slot : Fin 4
  /-- `FAULT`, R21. -/
  fault : FaultKind
  /-- `FCMD`, R21. -/
  fcmd : Cmd
  /-- The platform's constants (R25, log 1). -/
  platform : Platform
  /-- The command words the host has still to hand over, the first one presented on the command port
  (30_encoding.md rule R69, log 2). -/
  pending : List Cmd
  /-- The level of the input `reset` (30_encoding.md rule R71, log 3). -/
  resetIn : Bool
deriving DecidableEq, Repr

/-- Why a step can stop.  Neither reason is a fault of the spec's block (those are NEXT states): both stand for states
that no run reaches and to which no rule gives a step (log 9). -/
inductive Fault where
  /-- Raised by the WARM and FILL micro-steps when `CURSOR = UNINIT`, where the precondition of `NextUint32`
  (41_generate.md rule R103) fails.  Safe: the step stops instead of inventing an output. -/
  | generatorUnseeded
  /-- Raised by the FILL micro-step when the word list is empty, where `umod(r, 0)` is not defined (00_scope.md
  rule R7).  Safe: the step stops instead of inventing an index. -/
  | wordListEmpty
deriving DecidableEq, Repr

/-- Why an instruction has no meaning. -/
inductive Refusal where
  /-- Raised by `exec` for an instruction not modelled yet.  Safe; no arm of `exec` answers it now. -/
  | notModelled (mnemonic : String)
deriving DecidableEq, Repr

/-- The platform of the machine after power-on: the opaque parameters of Config (log 1). -/
def Platform.configured : Platform := ⟨Config.wordList, Config.exclusions, Config.keyCapacity⟩

/-- The state right after reset (10_state.md rule R27, 70_reset_and_hazards.md rule R170).  Where the spec says "no
value" the model holds zero, which no rule reads and no port shows (DESIGN CHOICE, log 4). -/
def State.reset : State where
  mt := Vector.replicate 624 0#32
  cursor := .uninit
  res := 0#32
  resv := false
  key := []
  cap := 0#32
  att := 0#32
  idx := Vector.replicate 4 0#31
  qw := Vector.replicate 4 0#40
  qvalid := false
  phase := .idle
  slot := 0
  fault := .none
  fcmd := 0#40
  platform := Platform.configured
  pending := []
  resetIn := false

end Sys2Proof.Machine
end

