-- ==== Sys2Proof/Machine/Ops.lean ====
section
/-! DEFINITION. The named operations over the address spaces and the registers, fault entry
(60_exceptions.md rule R158), reset (70_reset_and_hazards.md rules R170, R171), and the loop used by seeding and the
twist. -/

namespace Sys2Proof.Machine

open Sys2Proof

/-- `for n = 0, 1, ..., k - 1 in this order: body n`. -/
def loopUp {α : Type} (body : Nat → α → α) : Nat → α → α
  | 0, a => a
  | k + 1, a => body k (loopUp body k a)

/-! ## The address spaces (20_memory.md rule R40) -/

/-- `MemRead(MT, i)`: one whole element (20_memory.md rule R41). -/
def mtRead (mt : Mt) (i : Fin 624) : Word32 := mt.get i

/-- `MemWrite(MT, i, v)`: one whole element (20_memory.md rule R41). -/
def mtWrite (mt : Mt) (i : Fin 624) (v : Word32) : Mt := mt.set i.val v i.isLt

/-- `KEYLEN`, the number of readable elements (10_state.md rule R14). -/
def State.keylen (s : State) : Nat := s.key.length

/-- `MemRead(KEY, j)`.  Every read has `j < KEYLEN` (20_memory.md rule R42); beyond it an element holds no value and
no rule reads it. -/
def keyRead (key : List Word32) (j : Nat) : Word32 := key.getD j 0#32

/-- `KEYLEN <- 0`: every element becomes unreadable (40_seed.md rule R83). -/
def State.keyClear (s : State) : State := { s with key := [] }

/-- `KEY[KEYLEN] <- v ; KEYLEN <- KEYLEN + 1` (40_seed.md rule R84). -/
def State.keyAppend (s : State) (v : Word32) : State := { s with key := s.key ++ [v] }

/-- The buffer is full, `KEYLEN = KMAX` (40_seed.md rule R84). -/
def State.keyFull (s : State) : Bool := decide (s.keylen = s.platform.kmax)

/-- The canonical form of the key buffer: at most `KMAX` readable elements (10_state.md rule R14).  `MT` has its 624
elements by its type. -/
def Memory.wf (s : State) : Bool := decide (s.keylen ≤ s.platform.kmax)

/-- `L`, the length of the word list (20_memory.md rule R43). -/
def Platform.len (p : Platform) : Nat := p.wl.length

/-- `MemRead(WL, i)`: none where there is no element (20_memory.md rule R43: never happens for `umod(r, L)` with
`L > 0`). -/
def Platform.wlRead (p : Platform) (i : BitVec 31) : Option Word := p.wl[i.toNat]?

/-- `excluded(w)`: membership in the exclusion set (20_memory.md rule R44). -/
def Platform.excluded (p : Platform) (w : Word) : Bool := decide (w ∈ p.ex)

/-- `umod(r, L)`, the unsigned remainder of a 31-bit value, for `L > 0` (00_scope.md rule R7). -/
def umod (r : BitVec 31) (len : Nat) : BitVec 31 := BitVec.ofNat 31 (r.toNat % len)

/-! ## The generator registers -/

/-- The constructed generator, none while `CURSOR = UNINIT` (10_state.md rule R12). -/
def State.gen? (s : State) : Option Gen :=
  match s.cursor with
  | .uninit => none
  | .index c => some ⟨s.mt, c⟩

/-- Write `MT` and `CURSOR`. -/
def State.withGen (s : State) (g : Gen) : State := { s with mt := g.mt, cursor := .index g.cursor }

/-- The 10-bit encoding of `CURSOR`, `UNINIT` as 625 (10_state.md rule R11; not observable). -/
def Cursor.encode : Cursor → BitVec 10
  | .uninit => 625#10
  | .index c => BitVec.ofNat 10 c.val

/-- `RES <- v ; RESV <- 1` (10_state.md rule R13). -/
def State.withRes (s : State) (v : Word32) : State := { s with res := v, resv := true }

/-! ## The loop-controller registers -/

/-- `CAP <- v` (10_state.md rule R15). -/
def State.withCap (s : State) (v : Word32) : State := { s with cap := v }

/-- The writes of the acceptance step of `DRAW` (42_draw.md rule R121). -/
def State.beginDraw (s : State) : State := { s with qvalid := false, att := 0#32, slot := 0, phase := .warm }

/-- `SLOT <- k ; PHASE <- p`. -/
def State.sequence (s : State) (p : Phase) (k : Fin 4) : State := { s with phase := p, slot := k }

/-- `IDX[SLOT] <- q ; QW[SLOT] <- w` (42_draw.md rule R123). -/
def State.latch (s : State) (q : BitVec 31) (w : Word) : State :=
  { s with idx := s.idx.set s.slot.val q s.slot.isLt, qw := s.qw.set s.slot.val w s.slot.isLt }

/-- `min(ATT + 1, 2^32 - 1)`: the count saturates (10_state.md rule R16). -/
def attSucc (a : Word32) : Word32 := BitVec.ofNat 32 (min (a.toNat + 1) (2 ^ 32 - 1))

/-- `ATT <- min(ATT + 1, 2^32 - 1)` (42_draw.md rule R123). -/
def State.countAttempt (s : State) : State := { s with att := attSucc s.att }

/-- `QVALID <- 1 ; PHASE <- IDLE` (42_draw.md rule R124). -/
def State.finishDraw (s : State) : State := { s with qvalid := true, phase := .idle }

/-! ## Fault entry, and the only way out -/

/-- `raise K(w)` (60_exceptions.md rule R158): three writes and nothing else. -/
def State.raise (s : State) (k : FaultKind) (w : Cmd) : State := { s with fault := k, fcmd := w, phase := .halt }

/-- Reset (70_reset_and_hazards.md rules R170, R171): every piece of the block's state takes its reset value, the
platform's constants are unaffected, the command presented and not accepted is dropped, and the host has pulsed the
reset input (log 3).  It is also the only event that leaves HALT (60_exceptions.md rule R159). -/
def State.hardReset (s : State) : State :=
  { State.reset with platform := s.platform, pending := s.pending.tail }

/-! ## The host's side of the input ports (30_encoding.md rules R69, R71) -/

/-- The host presents a word on the command port, before any it has still to hand over (log 11). -/
def State.present (s : State) (w : Cmd) : State := { s with pending := w :: s.pending }

/-- What the host has still to hand over. -/
def State.withPending (s : State) (ws : List Cmd) : State := { s with pending := ws }

/-- The host asserts the reset input (R170). -/
def State.assertReset (s : State) : State := { s with resetIn := true }

end Sys2Proof.Machine
end

