-- ==== Sys2Proof/Machine/Generate.lean ====
section
/-! DEFINITION. The twist, tempering, the output functions and the commands `NEXT32`, `NEXT31`
(41_generate.md). -/

namespace Sys2Proof.Machine

open Sys2Proof

/-- The new word the twist makes of word `n`, word `n + 1` and the word 397 places on (R100). -/
def twistWord (cur succ far : Word32) : Word32 :=
  let y := or32 (and32 cur Config.upper) (and32 succ Config.lower)
  let mag := if y.getLsbD 0 then Config.matrixA else 0#32
  xor32 (xor32 far (shr32 y 1)) mag

/-- One iteration of the twist, in place (R100).  Index arithmetic on `Fin 624` is modulo 624. -/
def twistStep (n : Nat) (mt : Mt) : Mt :=
  let i := Fin.ofNat 624 n
  mtWrite mt i (twistWord (mtRead mt i) (mtRead mt (i + 1)) (mtRead mt (i + 397)))

/-- `MT` after `Twist()` (R100): `n = 0, 1, ..., 623` in this order. -/
def twist (mt : Mt) : Mt := loopUp twistStep 624 mt

/-- `Temper(y)` (R102): four stages, each shifting its own input. -/
def temper (y : Word32) : Word32 :=
  let y1 := xor32 y (shr32 y 11)
  let y2 := xor32 y1 (and32 (shl32 y1 7) Config.temperB)
  let y3 := xor32 y2 (and32 (shl32 y2 15) Config.temperC)
  xor32 y3 (shr32 y3 18)

/-- `if CURSOR = 624 then Twist()`: the array and the cursor the word is then read at (R103). -/
def Gen.ready (g : Gen) : Mt × Fin 624 :=
  if h : g.cursor.val < 624 then (g.mt, ⟨g.cursor.val, h⟩) else (twist g.mt, 0)

/-- `NextUint32()` (R103): the output and the generator after it. -/
def Gen.nextUint32 (g : Gen) : Word32 × Gen :=
  let r := g.ready
  (temper (mtRead r.1 r.2), ⟨r.1, r.2.succ⟩)

/-- `NextUint31()` (R104): the 32-bit output shifted right by one. -/
def Gen.nextUint31 (g : Gen) : BitVec 31 × Gen :=
  let r := g.nextUint32
  ((shr32 r.1 1).setWidth 31, r.2)

/-- `NEXT32` (R105): `NotSeeded` while `CURSOR = UNINIT` (60_exceptions.md rule R152). -/
def execNext32 (s : State) : Host.Outcome State Fault Refusal :=
  match s.gen? with
  | none => .next (s.raise .notSeeded (encode .next32))
  | some g => .next ((s.withGen g.nextUint32.2).withRes g.nextUint32.1)

/-- `NEXT31` (R106): `NotSeeded` while `CURSOR = UNINIT` (60_exceptions.md rule R152). -/
def execNext31 (s : State) : Host.Outcome State Fault Refusal :=
  match s.gen? with
  | none => .next (s.raise .notSeeded (encode .next31))
  | some g => .next ((s.withGen g.nextUint31.2).withRes (g.nextUint31.1.setWidth 32))

end Sys2Proof.Machine
end

