-- ==== Sys2Proof/Machine/Draw.lean ====
section
/-! DEFINITION. The rejection-sampling loop controller: the commands `SETCAP` and `DRAW`, and the micro-steps of a
running `DRAW` (42_draw.md). -/

namespace Sys2Proof.Machine

open Sys2Proof

/-- `SETCAP imm32` (R120). -/
def execSetcap (imm : Word32) (s : State) : Host.Outcome State Fault Refusal := .next (s.withCap imm)

/-- The acceptance step of `DRAW` (R121): `NotSeeded` first, then `EmptyWordList` (60_exceptions.md rule R157). -/
def execDraw (s : State) : Host.Outcome State Fault Refusal :=
  match s.gen? with
  | none => .next (s.raise .notSeeded (encode .draw))
  | some _ => if s.platform.len = 0 then .next (s.raise .emptyWordList (encode .draw)) else .next s.beginDraw

/-- The WARM micro-step (R122): one output, discarded. -/
def warmStep (s : State) : Host.Outcome State Fault Refusal :=
  match s.gen? with
  | none => .fault .generatorUnseeded
  | some g =>
    let t := s.withGen g.nextUint31.2
    if s.slot = 3 then .next (t.sequence .fill 0) else .next (t.sequence .warm (s.slot + 1))

/-- The FILL micro-step (R123): one output, its index and its word into slot `SLOT`. -/
def fillStep (s : State) : Host.Outcome State Fault Refusal :=
  match s.gen? with
  | none => .fault .generatorUnseeded
  | some g =>
    let q := umod g.nextUint31.1 s.platform.len
    match s.platform.wlRead q with
    | none => .fault .wordListEmpty
    | some w =>
      let t := (s.withGen g.nextUint31.2).latch q w
      if s.slot = 3 then .next (t.countAttempt.sequence .check s.slot) else .next (t.sequence .fill (s.slot + 1))

/-- `Accept(w0, w1, w2, w3)` (R125): six comparisons of words and four look-ups. -/
def acceptWords (p : Platform) (w0 w1 w2 w3 : Word) : Bool :=
  (w0 != w1 && w0 != w2 && w0 != w3 && w1 != w2 && w1 != w3 && w2 != w3) &&
    (!p.excluded w0 && !p.excluded w1 && !p.excluded w2 && !p.excluded w3)

/-- `Accept` of the candidate in `QW` (R124). -/
def State.accepted (s : State) : Bool :=
  acceptWords s.platform (s.qw.get 0) (s.qw.get 1) (s.qw.get 2) (s.qw.get 3)

/-- The CHECK micro-step (R124): acceptance before the cap; on rejection back to FILL, not to WARM.
`DrawExhausted` records the `DRAW` that was running (60_exceptions.md rule R155). -/
def checkStep (s : State) : Host.Outcome State Fault Refusal :=
  if s.accepted then .next s.finishDraw
  else if s.cap ≠ 0#32 ∧ s.cap ≤ s.att then .next (s.raise .drawExhausted (encode .draw))
  else .next (s.sequence .fill 0)

end Sys2Proof.Machine
end

