-- ==== Sys2Proof/Machine/Seed.lean ====
section
/-! DEFINITION. Seeding: `InitInt`, `InitArray` and the commands `SEEDI`, `KEYCLR`, `KEYPUSH`, `SEEDA`
(40_seed.md).  The loops run in place and in the order of the rules (70_reset_and_hazards.md rule R173). -/

namespace Sys2Proof.Machine

open Sys2Proof

/-- `v xor shr32(v, 30)`, the `x` of rules R80 and R85. -/
def foldTop (v : Word32) : Word32 := xor32 v (shr32 v 30)

/-- The value rule R80 gives element `i` from the element before it. -/
def initWord (prev : Word32) (i : Nat) : Word32 :=
  add32 (mul32 Config.initMult (foldTop prev)) (BitVec.ofNat 32 i)

/-- One iteration of `InitInt`, for `i` from 1 to 623 (R80). -/
def initStep (i : Nat) (mt : Mt) : Mt :=
  mtWrite mt (Fin.ofNat 624 i) (initWord (mtRead mt (Fin.ofNat 624 (i - 1))) i)

/-- `MT` after `InitInt(s)` (R80): element 0, then 623 iterations in ascending order. -/
def initMt (s : Word32) (mt : Mt) : Mt := loopUp (fun k => initStep (k + 1)) 623 (mtWrite mt 0 s)

/-- `InitInt(s)` (R80). -/
def initInt (s : Word32) (mt : Mt) : Gen := ⟨initMt s mt, 624⟩

/-- The product of rule R81 by the split of `x` into halves of 16 bits, which the source asks for on a host without
32-bit arithmetic.  The block multiplies exactly; the two are equal. -/
def splitMulAdd (x : Word32) (i : Word32) : Word32 :=
  let xh := shr32 x 16
  let xl := and32 x 0xFFFF#32
  add32 (add32 (shl32 (mul32 xh Config.initMult) 16) (mul32 xl Config.initMult)) i

/-- The variables of the passes of `InitArray` (R85): the array, the state index `i` and the key index `j`. -/
structure ArrayPass where
  mt : Mt
  i : Fin 624
  j : Nat
deriving DecidableEq, Repr

/-- The value the first pass gives `MT[i]` (R85). -/
def firstPassWord (prev old k : Word32) (j : Nat) : Word32 :=
  add32 (add32 (xor32 old (mul32 (foldTop prev) Config.arrMult1)) k) (BitVec.ofNat 32 j)

/-- The value the second pass gives `MT[i]` (R85). -/
def secondPassWord (prev old : Word32) (i : Nat) : Word32 :=
  sub32 (xor32 old (mul32 (foldTop prev) Config.arrMult2)) (BitVec.ofNat 32 i)

/-- `i <- i + 1`, and `if i >= 624 then MT[0] <- MT[623] ; i <- 1` (R85). -/
def wrapState (mt : Mt) (i : Fin 624) : Mt × Fin 624 :=
  if i.val + 1 ≥ 624 then (mtWrite mt 0 (mtRead mt 623), 1) else (mt, i + 1)

/-- `j <- j + 1`, and `if j >= KEYLEN then j <- 0` (R85). -/
def wrapKey (keylen j : Nat) : Nat := if j + 1 ≥ keylen then 0 else j + 1

/-- One iteration of the first pass of `InitArray` (R85). -/
def firstPassStep (key : List Word32) (p : ArrayPass) : ArrayPass :=
  let mt := mtWrite p.mt p.i (firstPassWord (mtRead p.mt (p.i - 1)) (mtRead p.mt p.i) (keyRead key p.j) p.j)
  let w := wrapState mt p.i
  ⟨w.1, w.2, wrapKey key.length p.j⟩

/-- One iteration of the second pass of `InitArray` (R85). -/
def secondPassStep (p : ArrayPass) : ArrayPass :=
  let mt := mtWrite p.mt p.i (secondPassWord (mtRead p.mt (p.i - 1)) (mtRead p.mt p.i) p.i.val)
  let w := wrapState mt p.i
  ⟨w.1, w.2, p.j⟩

/-- The first pass: `max(624, KEYLEN)` iterations from `i = 1`, `j = 0` (R85). -/
def firstPass (key : List Word32) (mt : Mt) : ArrayPass :=
  (firstPassStep key)^[max 624 key.length] ⟨mt, 1, 0⟩

/-- The second pass: 623 iterations, `i` not reset in between (R85). -/
def secondPass (p : ArrayPass) : ArrayPass := secondPassStep^[623] p

/-- `InitArray()` on a key with at least one element (R85). -/
def initArray (key : List Word32) (mt : Mt) : Gen :=
  ⟨mtWrite (secondPass (firstPass key (initMt Config.arrSeed mt))).mt 0 Config.arrForce, 624⟩

/-- `SEEDI imm32` (R82). -/
def execSeedi (imm : Word32) (s : State) : Host.Outcome State Fault Refusal :=
  .next (s.withGen (initInt imm s.mt))

/-- `KEYCLR` (R83). -/
def execKeyclr (s : State) : Host.Outcome State Fault Refusal := .next s.keyClear

/-- `KEYPUSH imm32` (R84): `InvalidSeed` when the buffer is full (60_exceptions.md rule R153). -/
def execKeypush (imm : Word32) (s : State) : Host.Outcome State Fault Refusal :=
  if s.keyFull then .next (s.raise .invalidSeed (encode (.keypush imm))) else .next (s.keyAppend imm)

/-- `SEEDA` (R86): `InvalidSeed` when the key is empty (60_exceptions.md rule R153). -/
def execSeeda (s : State) : Host.Outcome State Fault Refusal :=
  if s.keylen = 0 then .next (s.raise .invalidSeed (encode .seeda)) else .next (s.withGen (initArray s.key s.mt))

end Sys2Proof.Machine
end

