-- ==== Sys2Proof/Machine/Dispatch.lean ====
section
/-! DEFINITION. One arm per command (30_encoding.md rule R63), each one call of its meaning. -/

namespace Sys2Proof.Machine

open Sys2Proof

/-- The meaning of every command: the pseudocode of its rule, performed on a state in which it has been accepted.
The phase is judged by the acceptance (Engine.lean), not here (log 7). -/
def exec (i : Instr) (s : State) : Host.Outcome State Fault Refusal :=
  match i with
  | .seedi imm => Sys2Proof.Machine.execSeedi imm s
  | .keyclr => Sys2Proof.Machine.execKeyclr s
  | .keypush imm => Sys2Proof.Machine.execKeypush imm s
  | .seeda => Sys2Proof.Machine.execSeeda s
  | .next32 => Sys2Proof.Machine.execNext32 s
  | .next31 => Sys2Proof.Machine.execNext31 s
  | .setcap imm => Sys2Proof.Machine.execSetcap imm s
  | .draw => Sys2Proof.Machine.execDraw s

end Sys2Proof.Machine
end

