-- ==== Sys2Proof/Machine/Engine.lean ====
section
/-! DEFINITION. The engine: acceptance of a command, the phases of the sequencer, and reset
(30_encoding.md rule R69, 42_draw.md rule R130, 60_exceptions.md rule R159, 70_reset_and_hazards.md rule R171). -/

namespace Sys2Proof.Machine

open Sys2Proof

/-- The block performs an accepted word: the command it encodes, or `IllegalCommand` and nothing of the word
(60_exceptions.md rules R151, R157). -/
def acceptCommand (w : Cmd) (s : State) : Host.Outcome State Fault Refusal :=
  match decode w with
  | .ok i => exec i s
  | .error _ => .next (s.raise .illegalCommand w)

/-- In `IDLE` the word the host presents is accepted, whole, and leaves the port; with none presented the block holds
its state (30_encoding.md rule R69, 60_exceptions.md rule R163, log 8). -/
def idleStep (s : State) : Host.Outcome State Fault Refusal :=
  match s.pending with
  | [] => .next s
  | w :: rest => acceptCommand w (s.withPending rest)

/-- One step of the engine by its phase.  While a `DRAW` runs exactly one micro-step is enabled and a presented
command waits (42_draw.md rule R130, 70_reset_and_hazards.md rule R175); in `HALT` nothing is enabled and the state is
held (60_exceptions.md rule R159, log 8). -/
def engineStep (s : State) : Host.Outcome State Fault Refusal :=
  match s.phase with
  | .idle => idleStep s
  | .warm => warmStep s
  | .fill => fillStep s
  | .check => checkStep s
  | .halt => .next s

/-- Reset wins over everything and falls between two atomic steps (70_reset_and_hazards.md rule R171). -/
def blockStep (s : State) : Host.Outcome State Fault Refusal :=
  if s.resetIn then .next s.hardReset else engineStep s

end Sys2Proof.Machine
end

