-- ==== Sys2Proof/Machine/Operands.lean ====
section
/-! DEFINITION. The operands.  A format-I command carries `imm32 = cmd[31:0]`, unsigned, with no extension, scaling or
shift (30_encoding.md rule R62); a format-O command has none (R61).  Wider or signed integers are reduced by the host
before they reach the port (00_scope.md rule R9). -/

namespace Sys2Proof.Machine

open Sys2Proof

/-- The operand of a command, none for format O (rules R61, R62). -/
def operand : Instr → Option Word32
  | .seedi imm => some imm
  | .keyclr => none
  | .keypush imm => some imm
  | .seeda => none
  | .next32 => none
  | .next31 => none
  | .setcap imm => some imm
  | .draw => none

/-- `d mod 2^32`, the operand the host forms from an integer seed or key element (00_scope.md rule R9,
30_encoding.md rule R68): for a negative `d` its two's-complement low 32 bits. -/
def reduce32 (d : Int) : Word32 := BitVec.ofInt 32 d

end Sys2Proof.Machine
end

