-- ==== Sys2Proof/Machine/Assembler.lean ====
section
/-! DEFINITION. The assembler (30_encoding.md rules R67, R68): lines to commands, pseudo-instructions as pure
expansions, and the reading of source text.  Text is a list of characters.  What the rules leave open in the notation
(white space, the letters of hexadecimal digits, the sign of an integer operand) is log 13. -/

namespace Sys2Proof.Machine

open Sys2Proof

/-- The commands a line stands for (rules R67, R68), if the assembler accepts it. -/
def assembleLine (l : AsmLine) : Option (List Instr) :=
  if l.wf then
    match l with
    | .seedi n => some [.seedi (BitVec.ofNat 32 n)]
    | .keyclr => some [.keyclr]
    | .keypush n => some [.keypush (BitVec.ofNat 32 n)]
    | .seeda => some [.seeda]
    | .next32 => some [.next32]
    | .next31 => some [.next31]
    | .setcap n => some [.setcap (BitVec.ofNat 32 n)]
    | .draw => some [.draw]
    | .seedd d => some [.seedi (reduce32 d)]
    | .seedarr ks => some (.keyclr :: ks.map (fun k => .keypush (reduce32 k)) ++ [.seeda])
    | .nocap => some [.setcap 0#32]
  else none

/-- A program: its lines in order, none if one of them is not accepted. -/
def assembleProgram : List AsmLine → Option (List Instr)
  | [] => some []
  | l :: ls =>
    match assembleLine l, assembleProgram ls with
    | some is, some js => some (is ++ js)
    | _, _ => none

/-- The command words of a program, as the host hands them over (rule R67, `{op, imm}`). -/
def assembleWords (ls : List AsmLine) : Option (List Cmd) := (assembleProgram ls).map (List.map encode)

/-! ## Source text -/

/-- A completed word of the line, if there is one. -/
def flushToken (cur : List Char) : List (List Char) := if cur.isEmpty then [] else [cur.reverse]

/-- The words of a line: split at white space, a bracket or a comma a word of its own, `;` starts a comment
(rule R67). -/
def tokens : List Char → List Char → List (List Char)
  | [], cur => flushToken cur
  | c :: cs, cur =>
    if c = ';' then flushToken cur
    else if c = ' ' ∨ c = '\t' ∨ c = '\r' then flushToken cur ++ tokens cs []
    else if c = '[' ∨ c = ']' ∨ c = ',' then flushToken cur ++ [c] :: tokens cs []
    else tokens cs (c :: cur)

/-- The value of a decimal digit. -/
def decDigit (c : Char) : Option Nat := if '0' ≤ c ∧ c ≤ '9' then some (c.toNat - '0'.toNat) else none

/-- The value of a hexadecimal digit. -/
def hexDigit (c : Char) : Option Nat :=
  if 'a' ≤ c ∧ c ≤ 'f' then some (c.toNat - 'a'.toNat + 10)
  else if 'A' ≤ c ∧ c ≤ 'F' then some (c.toNat - 'A'.toNat + 10)
  else decDigit c

/-- The number that digits of a base spell after the digits read so far. -/
def digitsValue (base : Nat) (digit : Char → Option Nat) : List Char → Nat → Option Nat
  | [], acc => some acc
  | c :: cs, acc =>
    match digit c with
    | some d => digitsValue base digit cs (acc * base + d)
    | none => none

/-- A number in decimal, or in hexadecimal with the prefix `0x` (rule R67). -/
def parseNat : List Char → Option Nat
  | [] => none
  | '0' :: 'x' :: c :: cs => digitsValue 16 hexDigit (c :: cs) 0
  | c :: cs => digitsValue 10 decDigit (c :: cs) 0

/-- A signed integer, for `SEEDD` and the elements of `SEEDARR` (rule R68). -/
def parseInt : List Char → Option Int
  | '-' :: cs => (parseNat cs).map (fun n => -(n : Int))
  | cs => (parseNat cs).map (fun n => (n : Int))

/-- The elements of a key after its opening bracket: integers separated by commas, then the closing bracket. -/
def parseKey : List (List Char) → Option (List Int)
  | [t, [']']] => (parseInt t).map (fun k => [k])
  | t :: [','] :: ts =>
    match parseInt t, parseKey ts with
    | some k, some ks => some (k :: ks)
    | _, _ => none
  | _ => none

/-- A line's words as a line: the outer `none` is an error, the inner one a line with nothing on it. -/
def parseTokens : List (List Char) → Option (Option AsmLine)
  | [] => some none
  | [m] =>
    if m = ['K', 'E', 'Y', 'C', 'L', 'R'] then some (some .keyclr)
    else if m = ['S', 'E', 'E', 'D', 'A'] then some (some .seeda)
    else if m = ['N', 'E', 'X', 'T', '3', '2'] then some (some .next32)
    else if m = ['N', 'E', 'X', 'T', '3', '1'] then some (some .next31)
    else if m = ['D', 'R', 'A', 'W'] then some (some .draw)
    else if m = ['N', 'O', 'C', 'A', 'P'] then some (some .nocap)
    else none
  | [m, t] =>
    if m = ['S', 'E', 'E', 'D', 'I'] then (parseNat t).map (fun n => some (.seedi n))
    else if m = ['K', 'E', 'Y', 'P', 'U', 'S', 'H'] then (parseNat t).map (fun n => some (.keypush n))
    else if m = ['S', 'E', 'T', 'C', 'A', 'P'] then (parseNat t).map (fun n => some (.setcap n))
    else if m = ['S', 'E', 'E', 'D', 'D'] then (parseInt t).map (fun d => some (.seedd d))
    else none
  | m :: ['['] :: ts =>
    if m = ['S', 'E', 'E', 'D', 'A', 'R', 'R'] then (parseKey ts).map (fun ks => some (.seedarr ks))
    else none
  | _ => none

/-- One line of source text (rules R67, R68). -/
def parseLine (cs : List Char) : Option (Option AsmLine) := parseTokens (tokens cs [])

/-- The lines of a text, one command per line (rule R67), after the part of a line read so far. -/
def splitLines : List Char → List Char → List (List Char)
  | [], cur => [cur.reverse]
  | c :: cs, cur => if c = '\n' then cur.reverse :: splitLines cs [] else splitLines cs (c :: cur)

/-- The lines of a source text that hold something, none if one of them is not assembler. -/
def parseLines : List (List Char) → Option (List AsmLine)
  | [] => some []
  | l :: ls =>
    match parseLine l, parseLines ls with
    | some none, some rest => some rest
    | some (some a), some rest => some (a :: rest)
    | _, _ => none

/-- The command words of a source text. -/
def assembleText (cs : List Char) : Option (List Cmd) := (parseLines (splitLines cs [])).bind assembleWords

end Sys2Proof.Machine
end

