-- ==== Sys2Proof/Machine/Flags.lean ====
section
/-! DEFINITION. The five status bits, the fault codes and the `STATUS` view (10_state.md rule R22, 60_exceptions.md
rule R150).  The block has no condition codes (10_state.md rule R24). -/

namespace Sys2Proof.Machine

open Sys2Proof

/-- A `DRAW` runs: `PHASE` is `WARM`, `FILL` or `CHECK`. -/
def Phase.busy : Phase → Bool
  | .idle => false
  | .warm => true
  | .fill => true
  | .check => true
  | .halt => false

/-- `BUSY`, bit 0 of `STATUS`. -/
def State.busy (s : State) : Bool := s.phase.busy

/-- `SEEDED`, bit 1 of `STATUS`: `CURSOR` is not `UNINIT`. -/
def State.seeded (s : State) : Bool := s.cursor != .uninit

/-- `HALTED`, bit 4 of `STATUS`: `PHASE = HALT`. -/
def State.halted (s : State) : Bool := s.phase == .halt

/-- The code of a fault kind, the value of `FAULT` (60_exceptions.md rule R150). -/
def FaultKind.code : FaultKind → BitVec 3
  | .none => 0#3
  | .illegalCommand => 1#3
  | .notSeeded => 2#3
  | .invalidSeed => 3#3
  | .emptyWordList => 4#3
  | .drawExhausted => 5#3

/-- `STATUS` (10_state.md rule R22): from bit 15 down, five zeros, `FAULT`, three zeros, `HALTED`, `QVALID`, `RESV`,
`SEEDED`, `BUSY`. -/
def State.status (s : State) : BitVec 16 :=
  0#5 ++ s.fault.code ++ 0#3 ++ BitVec.ofBool s.halted ++ BitVec.ofBool s.qvalid ++ BitVec.ofBool s.resv ++
    BitVec.ofBool s.seeded ++ BitVec.ofBool s.busy

end Sys2Proof.Machine
end

