-- ==== Sys2Proof/Machine/Ports.lean ====
section
/-! DEFINITION. The ports (30_encoding.md rules R69 to R71).  An output port whose valid condition is false shows no
value: it is `none`, never zeros (R70). -/

namespace Sys2Proof.Machine

open Sys2Proof

/-- `cmd_ready`: `PHASE = IDLE` (R69, R70). -/
def State.cmdReadyPort (s : State) : Bool := s.phase == .idle

/-- `status`, always valid (R70). -/
def State.statusPort (s : State) : BitVec 16 := s.status

/-- `res`, valid when `RESV = 1` (R70). -/
def State.resPort (s : State) : Option Word32 := if s.resv then some s.res else none

/-- `att`, always valid (R70). -/
def State.attPort (s : State) : Word32 := s.att

/-- `idx0` to `idx3`, valid when `QVALID = 1` (R70). -/
def State.idxPort (s : State) (k : Fin 4) : Option (BitVec 31) := if s.qvalid then some (s.idx.get k) else none

/-- `qw0` to `qw3`, valid when `QVALID = 1` (R70): in this order the Word Quartet. -/
def State.qwPort (s : State) (k : Fin 4) : Option Word := if s.qvalid then some (s.qw.get k) else none

/-- `fcmd`, valid when `STATUS.HALTED = 1` (R70). -/
def State.fcmdPort (s : State) : Option Cmd := if s.halted then some s.fcmd else none

/-- The inputs `cmd_valid` and `cmd`: the word the host presents, if any (R69). -/
def State.cmdPort (s : State) : Option Cmd := s.pending.head?

/-- A command is accepted at the instant both `cmd_valid` and `cmd_ready` are 1, and reset is not asserted
(R69, 70_reset_and_hazards.md rule R171). -/
def State.accepts (s : State) : Bool := s.cmdReadyPort && s.cmdPort.isSome && !s.resetIn

/-- The input `wl_len` (R71). -/
def State.wlLenPort (s : State) : BitVec 32 := BitVec.ofNat 32 s.platform.len

/-- The input `ex_hit` for the word presented on `ex_word` (R71). -/
def State.exHitPort (s : State) (exWord : Word) : Bool := s.platform.excluded exWord

end Sys2Proof.Machine
end

