-- ==== Sys2Proof/Safety.lean ====
section
/-! DEFINITION. What claims about the machine speak of: the end of a run (70_reset_and_hazards.md rule R180), the
invariant of the block, the cause of a fault, the output sequence of a generator and the candidates of a `DRAW`
(42_draw.md rule R126). -/

namespace Sys2Proof.Machine

open Sys2Proof

/-! ## Runs (R180) -/

/-- `n` steps of the machine. -/
def run (n : Nat) (s : State) : Host.Outcome State Fault Refusal := Host.Core.run Sys2Proof.core n s

/-- The run has ended: no command is left with the host and `PHASE = IDLE` (R180: the last command of the sequence has
been accepted and `PHASE = IDLE` again).  DESIGN CHOICE, unsafe, log 14: where no last command was accepted, R180 leaves
open whether the run has ended; here it has, for an empty sequence (so at once in `State.reset`) and after a reset that
dropped the last held word. -/
def State.runEnded (s : State) : Prop := s.pending = [] ∧ s.phase = .idle

/-- The run has faulted.  A faulted run has not ended. -/
def State.runFaulted (s : State) : Prop := s.phase = .halt

/-! ## The invariant of the block -/

/-- The constraints of 00_scope.md rule R5 on the platform. -/
def Platform.wf (p : Platform) : Prop := 0 < p.kmax ∧ p.len < 2 ^ 32

/-- Slot `k` holds an index below `L` and the word of the list at it (42_draw.md rules R123, R128). -/
def State.latched (s : State) (k : Fin 4) : Prop :=
  (s.idx.get k).toNat < s.platform.len ∧ s.platform.wlRead (s.idx.get k) = some (s.qw.get k)

/-- The candidate is a valid Word Quartet (10_state.md rules R18, R19, 42_draw.md rule R128). -/
def State.quartetValid (s : State) : Prop := s.accepted = true ∧ ∀ k : Fin 4, s.latched k

/-- What holds of the block between any two steps. -/
structure Inv (s : State) : Prop where
  /-- The platform's constants meet rule R5. -/
  platform : s.platform.wf
  /-- `KEYLEN <= KMAX` (10_state.md rule R14). -/
  key : Memory.wf s = true
  /-- A seeded `CURSOR` is in `[1, 624]` (10_state.md rule R12). -/
  cursor : s.cursor ≠ .index 0
  /-- `PHASE = HALT` iff `FAULT != 0` (10_state.md rule R22). -/
  halted : s.phase = .halt ↔ s.fault ≠ .none
  /-- A running `DRAW` has a seeded generator, a word list, and no quartet (42_draw.md rule R121). -/
  running : s.busy = true → s.seeded = true ∧ s.platform.len ≠ 0 ∧ s.qvalid = false
  /-- No attempt is counted during the warm-up. -/
  warm : s.phase = .warm → s.att = 0#32
  /-- The slots before `SLOT` are latched while the candidate is filled. -/
  fill : s.phase = .fill → ∀ k : Fin 4, k < s.slot → s.latched k
  /-- The whole candidate is latched and counted when it is judged. -/
  check : s.phase = .check → s.slot = 3 ∧ s.att ≠ 0#32 ∧ ∀ k : Fin 4, s.latched k
  /-- Under a cap a running `DRAW` has made no more attempts than the cap, and may begin one only below it
  (10_state.md rule R15). -/
  cap : s.busy = true → s.cap ≠ 0#32 → s.att ≤ s.cap ∧ (s.phase ≠ .check → s.att < s.cap)
  /-- `QVALID = 1` only with an accepted quartet (10_state.md rule R19). -/
  quartet : s.qvalid = true → s.quartetValid

/-- Why a halted block has halted: what rules R151 to R155 give as the cause of each fault kind, with the word in
`FCMD`. -/
def State.faultCause (s : State) : Prop :=
  match s.fault with
  | .none => True
  | .illegalCommand => ∃ e, decode s.fcmd = .error e
  | .notSeeded => s.cursor = .uninit ∧ (s.fcmd = encode .next32 ∨ s.fcmd = encode .next31 ∨ s.fcmd = encode .draw)
  | .invalidSeed =>
    (s.keylen = 0 ∧ s.fcmd = encode .seeda) ∨ (s.keylen = s.platform.kmax ∧ ∃ imm, s.fcmd = encode (.keypush imm))
  | .emptyWordList => s.cursor ≠ .uninit ∧ s.platform.len = 0 ∧ s.fcmd = encode .draw
  | .drawExhausted =>
    s.cap ≠ 0#32 ∧ s.cap ≤ s.att ∧ s.accepted = false ∧ s.fcmd = encode .draw

/-! ## The output sequence of a generator and the attempts of a draw (42_draw.md rule R126) -/

/-- The generator after `n` outputs. -/
def Gen.after (g : Gen) : Nat → Gen
  | 0 => g
  | n + 1 => (g.after n).nextUint32.2

/-- The `n`-th 32-bit output, counted from 1. -/
def Gen.output32 (g : Gen) (n : Nat) : Word32 := (g.after (n - 1)).nextUint32.1

/-- `u_n`, the `n`-th 31-bit output, counted from 1. -/
def Gen.output31 (g : Gen) (n : Nat) : BitVec 31 := (g.after (n - 1)).nextUint31.1

/-- `idx_k` of attempt `t`, counted from 1: it uses `u_(4t+1+k)`, after the 4 warm-up outputs. -/
def attemptIdx (p : Platform) (g : Gen) (t k : Nat) : BitVec 31 := umod (g.output31 (4 * t + 1 + k)) p.len

/-- `w_k = WL[idx_k]` of attempt `t`.  The default is never taken when `L > 0`. -/
def attemptWord (p : Platform) (g : Gen) (t k : Nat) : Word := (p.wlRead (attemptIdx p g t k)).getD 0#40

/-- The candidate of attempt `t` satisfies `Accept`. -/
def attemptAccepted (p : Platform) (g : Gen) (t : Nat) : Bool :=
  acceptWords p (attemptWord p g t 0) (attemptWord p g t 1) (attemptWord p g t 2) (attemptWord p g t 3)

/-- The state with the candidate of attempt `a` in `IDX` and `QW`, `a` attempts counted in the saturating `ATT`
(10_state.md rule R16), `SLOT = 3`, and the generator advanced by `4 + 4a` outputs from `g`. -/
def State.afterAttempts (s : State) (g : Gen) (a : Nat) : State :=
  { s.withGen (g.after (4 + 4 * a)) with
    idx := #v[attemptIdx s.platform g a 0, attemptIdx s.platform g a 1, attemptIdx s.platform g a 2,
      attemptIdx s.platform g a 3]
    qw := #v[attemptWord s.platform g a 0, attemptWord s.platform g a 1, attemptWord s.platform g a 2,
      attemptWord s.platform g a 3]
    att := BitVec.ofNat 32 (min a (2 ^ 32 - 1))
    slot := 3
    qvalid := false }

end Sys2Proof.Machine
end

