-- ==== Sys2Proof/Certificates/Slice0/Obligations.lean ====
section
/-! DEFINITION. The statements for the provers.  An instruction's result is stated as an equation between the answer of
`exec` and the whole next state, so each such statement is also the instruction's frame (every register, the key, all
624 words of `MT` and the host's ports not named in it are unchanged) and says where the instruction completes. -/

open Sys2Proof Sys2Proof.Machine

/-! ## Encoding -/

/-- Decoding the encoding of any command gives it back, with its operand at every value (30_encoding.md section 1). -/
def Obligations.DecodeOfEncodeIsTheCommand : Prop := ∀ i : Instr, decode (encode i) = .ok i

/-- The other direction: a legal word has one command, and it is that command's encoding (R64: "every word is either
exactly one command or illegal"). -/
def Obligations.EncodeOfDecodeIsTheWord : Prop := ∀ (w : Cmd) (i : Instr), decode w = .ok i → encode i = w

/-- R63: the eight rows of the opcode map, no word in two of them, and a word decodes to a command iff it selects that
command's row. -/
def Obligations.OpcodeMapIsDisjointAndDecoded : Prop :=
  opcodeMap.map (fun r => (r.mnemonic, r.format, r.pattern, r.mask)) =
      [("SEEDI", .i, 0x0100000000#40, 0xFF00000000#40), ("KEYCLR", .o, 0x0200000000#40, 0xFFFFFFFFFF#40),
        ("KEYPUSH", .i, 0x0300000000#40, 0xFF00000000#40), ("SEEDA", .o, 0x0400000000#40, 0xFFFFFFFFFF#40),
        ("NEXT32", .o, 0x1000000000#40, 0xFFFFFFFFFF#40), ("NEXT31", .o, 0x1100000000#40, 0xFFFFFFFFFF#40),
        ("SETCAP", .i, 0x2000000000#40, 0xFF00000000#40), ("DRAW", .o, 0x2100000000#40, 0xFFFFFFFFFF#40)] ∧
    (∀ (r r' : OpcodeRow) (w : Cmd), r ∈ opcodeMap → r' ∈ opcodeMap → w &&& r.mask = r.pattern →
      w &&& r'.mask = r'.pattern → r = r') ∧
    ∀ (r : OpcodeRow) (w : Cmd),
      (r ∈ opcodeMap ∧ w &&& r.mask = r.pattern) ↔ ∃ i, decode w = .ok i ∧ opcodeRow i = r

/-- R64, R151: which words are illegal, and what accepting one does.  The 248 unassigned opcode values are counted. -/
def Obligations.IllegalWordsFaultWhenAccepted : Prop :=
  (∀ w : Cmd, (∃ e, decode w = .error e) ↔
    (w.extractLsb' 32 8 ∉ [0x01#8, 0x02#8, 0x03#8, 0x04#8, 0x10#8, 0x11#8, 0x20#8, 0x21#8] ∨
      (w.extractLsb' 32 8 ∈ [0x02#8, 0x04#8, 0x10#8, 0x11#8, 0x21#8] ∧ w.extractLsb' 0 32 ≠ 0#32))) ∧
    ((List.range 256).filter (fun n => (opFormat (BitVec.ofNat 8 n)).isNone)).length = 248 ∧
    (∃ e, decode 0x0000000000#40 = .error e) ∧ (∃ e, decode 0xFFFFFFFFFF#40 = .error e) ∧
    ∀ (s : State) (w : Cmd) (rest : List Cmd) (e : Illegal), s.phase = .idle → s.resetIn = false →
      s.pending = w :: rest → decode w = .error e →
      step s = .next { s with pending := rest, fault := .illegalCommand, fcmd := w, phase := .halt }

/-- Words written out from R63 and R67, one for each command, and what they decode to. -/
def Obligations.WrittenOutWordsDecode : Prop :=
  decode 0x01FFFFFFFF#40 = .ok (.seedi 0xFFFFFFFF#32) ∧ decode 0x0200000000#40 = .ok .keyclr ∧
    decode 0x0300000123#40 = .ok (.keypush 0x123#32) ∧ decode 0x0400000000#40 = .ok .seeda ∧
    decode 0x1000000000#40 = .ok .next32 ∧ decode 0x1100000000#40 = .ok .next31 ∧
    decode 0x2000000003#40 = .ok (.setcap 3#32) ∧ decode 0x2100000000#40 = .ok .draw

/-- R68: the expansions of the pseudo-instructions, that `SEEDARR []` is not accepted, and that the sequence
`KEYCLR; SEEDA` it would give faults. -/
def Obligations.PseudoInstructionsExpand : Prop :=
  (∀ d : Int, ∃ imm : Word32, (imm.toNat : Int) = d % 2 ^ 32 ∧ assembleLine (.seedd d) = some [.seedi imm]) ∧
    (∀ ks : List Int, ks ≠ [] → ∃ imms : List Word32, imms.map (fun v => (v.toNat : Int)) = ks.map (fun k => k % 2 ^ 32) ∧
      assembleLine (.seedarr ks) = some (.keyclr :: imms.map .keypush ++ [.seeda])) ∧
    assembleLine (.seedarr []) = none ∧
    assembleLine .nocap = some [.setcap 0#32] ∧
    ∀ s : State, ∃ t, exec .keyclr s = .next t ∧ exec .seeda t = .next { t with
      fault := .invalidSeed, fcmd := 0x0400000000#40, phase := .halt }

/-! ## The step -/

/-- A step in `IDLE` without reset runs the command the presented word decodes to, on the state with that word taken
off the port. -/
def Obligations.StepRunsTheDecodedCommand : Prop :=
  ∀ (s : State) (w : Cmd) (rest : List Cmd) (i : Instr), s.phase = .idle → s.resetIn = false →
    s.pending = w :: rest → decode w = .ok i → step s = exec i { s with pending := rest }

/-- Placing a word on the port of an idle block makes the next step run it and nothing else. -/
def Obligations.PlacedWordIsTheNextCommand : Prop :=
  ∀ (s : State) (i : Instr), s.phase = .idle → s.resetIn = false →
    step (s.withFetchWord 40 (encode i).toNat) = exec i s

/-- With no command presented an idle block holds its state (60_exceptions.md section 6; that a step then answers the
same state is the model's choice, log 8). -/
def Obligations.IdleBlockHoldsItsState : Prop :=
  ∀ s : State, s.phase = .idle → s.resetIn = false → s.pending = [] → step s = .next s

/-- Reset wins in any phase and over any presented command: the next state is the reset state on the same platform.
That the zero of the registers without a value, and the dropping of the presented word from the host's list, read so
is the model's choice (log 3, log 4). -/
def Obligations.ResetWinsInEveryPhase : Prop :=
  ∀ s : State, s.resetIn = true →
    step s = .next { State.reset with platform := s.platform, pending := s.pending.tail }

/-- The values the spec gives the registers at reset, and what the ports show. -/
def Obligations.ResetLeavesTheBlockIdleAndUnseeded : Prop :=
  State.reset.cursor = .uninit ∧ State.reset.resv = false ∧ State.reset.keylen = 0 ∧ State.reset.cap = 0#32 ∧
    State.reset.att = 0#32 ∧ State.reset.qvalid = false ∧ State.reset.phase = .idle ∧ State.reset.slot = 0 ∧
    State.reset.fault = .none ∧ State.reset.status = 0x0000#16 ∧ State.reset.cmdReadyPort = true ∧
    State.reset.resPort = none ∧ State.reset.fcmdPort = none ∧
    ∀ k : Fin 4, State.reset.idxPort k = none ∧ State.reset.qwPort k = none

/-- R159: a halted block stays as it is for any number of steps, and reset is what leaves `HALT`. -/
def Obligations.HaltIsLeftOnlyByReset : Prop :=
  (∀ (s : State) (n : Nat), s.phase = .halt → s.resetIn = false → run n s = .next s) ∧
    ∀ s : State, s.phase = .halt → s.resetIn = true →
      ∃ t, step s = .next t ∧ t.phase = .idle ∧ t.fault = .none

/-- R69, R175: a command presented while a `DRAW` runs is neither accepted nor dropped, and in `IDLE` exactly the
presented one leaves the port. -/
def Obligations.CommandsAreHeldWhileBusy : Prop :=
  ∀ s t : State, s.resetIn = false → step s = .next t →
    (s.busy = true → t.pending = s.pending) ∧ (s.phase = .idle → t.pending = s.pending.tail)

/-- R158: a step that enters `HALT` writes `FAULT`, `FCMD` and `PHASE` and nothing else (an accepted word leaves the
port), `FAULT` gets a fault's code, and an accepted faulting word is the one recorded. -/
def Obligations.FaultsArePrecise : Prop :=
  ∀ s t : State, s.phase ≠ .halt → s.resetIn = false → step s = .next t → t.phase = .halt →
    t = { s with
          pending := (if s.phase = .idle then s.pending.tail else s.pending)
          fault := t.fault, fcmd := t.fcmd, phase := .halt } ∧
      t.fault ≠ .none ∧ (s.phase = .idle → s.pending.head? = some t.fcmd) ∧
      (s.phase ≠ .idle → t.fcmd = 0x2100000000#40 ∧ t.fault = .drawExhausted)

/-- Every command, on every state, ends in a next state: none is refused and none stops the machine. -/
def Obligations.EveryCommandCompletes : Prop :=
  ∀ (i : Instr) (s : State), ∃ t, exec i s = .next t ∧ t.platform = s.platform ∧ t.pending = s.pending ∧
    t.resetIn = s.resetIn

/-- The frame of the eight commands, register by register: what each leaves as it was. -/
def Obligations.CommandsLeaveOtherRegisters : Prop :=
  ∀ (i : Instr) (s t : State), exec i s = .next t →
    (i = .keyclr ∨ (∃ v, i = .keypush v) ∨ (∃ v, i = .setcap v) ∨ i = .draw → t.mt = s.mt ∧ t.cursor = s.cursor) ∧
    (i ≠ .next32 → i ≠ .next31 → t.res = s.res ∧ t.resv = s.resv) ∧
    (i ≠ .keyclr → (∀ v, i ≠ .keypush v) → t.key = s.key) ∧
    ((∀ v, i ≠ .setcap v) → t.cap = s.cap) ∧
    (i ≠ .draw → t.att = s.att ∧ t.qvalid = s.qvalid ∧ t.slot = s.slot) ∧
    (i = .keyclr ∨ (∃ v, i = .seedi v) ∨ (∃ v, i = .setcap v) →
      t.phase = s.phase ∧ t.fault = s.fault ∧ t.fcmd = s.fcmd) ∧
    t.idx = s.idx ∧ t.qw = s.qw

/-! ## Seeding -/

/-- R80, R82: after `SEEDI` element 0 is the operand, each further element comes from the one before it,
`CURSOR = 624`, nothing else is written, and `SEEDED` is 1. -/
def Obligations.SeediWritesEveryWord : Prop :=
  ∀ (imm : Word32) (s : State), encode (.seedi imm) = 0x01#8 ++ imm ∧
    ∃ (mt : Mt) (t : State), exec (.seedi imm) s = .next t ∧ t = { s with mt := mt, cursor := .index 624 } ∧
      t.status.getLsbD 1 = true ∧ mtRead mt 0 = imm ∧
      ∀ (i : Nat) (h : i + 1 < 624),
        mtRead mt ⟨i + 1, h⟩ =
          1812433253#32 * (mtRead mt ⟨i, by omega⟩ ^^^ (mtRead mt ⟨i, by omega⟩ >>> 30)) + BitVec.ofNat 32 (i + 1)

/-- The split-high/low-16-bit multiplication of R81 has the value of the exact product (the spec derives it). -/
def Obligations.SplitMultiplicationIsExact : Prop :=
  ∀ x i : Word32, splitMulAdd x i = 1812433253#32 * x + i

/-- `KEYCLR` empties the key buffer and changes nothing else; no status bit changes.  That `KEY` beyond `KEYLEN` is no
element of the list is the model's form of the buffer (log 5). -/
def Obligations.KeyclrEmptiesTheKey : Prop :=
  encode .keyclr = 0x0200000000#40 ∧
    ∀ s : State, ∃ t, exec .keyclr s = .next t ∧ t = { s with key := [] } ∧ t.keylen = 0 ∧ t.status = s.status

/-- R84: `KEYPUSH` appends one element and keeps the others in order; on a full buffer it raises `InvalidSeed` and
leaves the buffer. -/
def Obligations.KeypushAppendsOrFaults : Prop :=
  ∀ (imm : Word32) (s : State), encode (.keypush imm) = 0x03#8 ++ imm ∧
    (s.keylen ≠ s.platform.kmax → ∃ t, exec (.keypush imm) s = .next t ∧ t = { s with key := s.key ++ [imm] } ∧
      t.keylen = s.keylen + 1 ∧ keyRead t.key s.keylen = imm ∧ t.status = s.status ∧
      ∀ j, j < s.keylen → keyRead t.key j = keyRead s.key j) ∧
    (s.keylen = s.platform.kmax → exec (.keypush imm) s = .next { s with
      fault := .invalidSeed, fcmd := 0x03#8 ++ imm, phase := .halt })

/-- `SEEDA` on a key: `MT` is the array seeding of the key (the integer seeding of 19650218, the first pass of
`max(624, KEYLEN)` iterations, the second of 623), `MT[0] = 0x80000000`, `CURSOR = 624`, nothing else is written; on an
empty key it raises `InvalidSeed`.  The recurrence inside `initArray` is the one R85 marks as supplied
from general knowledge (log 12). -/
def Obligations.SeedaSeedsFromTheKey : Prop :=
  ∀ s : State,
    (s.keylen ≠ 0 → exec .seeda s = .next { s with mt := (initArray s.key s.mt).mt, cursor := .index 624 } ∧
      mtRead (initArray s.key s.mt).mt 0 = 0x80000000#32 ∧ ∀ k : Fin 624, k ≠ 0 →
        mtRead (initArray s.key s.mt).mt k = mtRead (secondPassStep^[623] ((firstPassStep s.key)^[max 624 s.keylen]
          ⟨initMt 19650218#32 s.mt, 1, 0⟩)).mt k) ∧
    (s.keylen = 0 → exec .seeda s = .next { s with
      fault := .invalidSeed, fcmd := 0x0400000000#40, phase := .halt })

/-- Array seeding overwrites all of `MT`: the result does not depend on what the array held. -/
def Obligations.ArraySeedingForgetsTheOldState : Prop :=
  ∀ (key : List Word32) (mt mt' : Mt), initArray key mt = initArray key mt'

/-- The indices of the passes of array seeding: the state index runs 1 to 623 and wraps to 1, the key index wraps at
the key length, so no access is out of range (R42, R85; the spec derives it).  The second pass goes on from the
index the first ended at. -/
def Obligations.ArrayPassIndicesStayInRange : Prop :=
  ∀ (key : List Word32) (mt : Mt) (n : Nat), key ≠ [] →
    ((firstPassStep key)^[n] ⟨mt, 1, 0⟩).i.val = 1 + n % 623 ∧
      ((firstPassStep key)^[n] ⟨mt, 1, 0⟩).j = n % key.length ∧
      ∀ p : ArrayPass, p.i ≠ 0 → (secondPassStep^[n] p).i.val = 1 + (p.i.val - 1 + n) % 623

/-- One iteration of each pass of array seeding writes `MT[i]` as R85 says, and `MT[0]` exactly at the wrap. -/
def Obligations.ArrayPassIterationWritesOneWord : Prop :=
  ∀ (key : List Word32) (p : ArrayPass), p.i ≠ 0 →
    mtRead (firstPassStep key p).mt p.i =
        (mtRead p.mt p.i ^^^ ((mtRead p.mt (p.i - 1) ^^^ (mtRead p.mt (p.i - 1) >>> 30)) * 1664525#32)) +
          keyRead key p.j + BitVec.ofNat 32 p.j ∧
      mtRead (secondPassStep p).mt p.i =
        (mtRead p.mt p.i ^^^ ((mtRead p.mt (p.i - 1) ^^^ (mtRead p.mt (p.i - 1) >>> 30)) * 1566083941#32)) -
          BitVec.ofNat 32 p.i.val ∧
      (∀ k : Fin 624, k ≠ 0 → k ≠ p.i →
        mtRead (firstPassStep key p).mt k = mtRead p.mt k ∧ mtRead (secondPassStep p).mt k = mtRead p.mt k) ∧
      mtRead (firstPassStep key p).mt 0 =
        (if p.i = 623 then mtRead (firstPassStep key p).mt 623 else mtRead p.mt 0) ∧
      mtRead (secondPassStep p).mt 0 =
        (if p.i = 623 then mtRead (secondPassStep p).mt 623 else mtRead p.mt 0)

/-! ## Twist, tempering, outputs -/

/-- The three ranges of the in-place twist: which reads see old words and which see words just written
(41_generate.md R101, which the spec derives from R100). -/
def Obligations.TwistReadsOldAndNewByRange : Prop :=
  ∀ mt : Mt,
    (∀ (n : Nat) (h : n < 227), mtRead (twist mt) ⟨n, by omega⟩ =
      twistWord (mtRead mt ⟨n, by omega⟩) (mtRead mt ⟨n + 1, by omega⟩) (mtRead mt ⟨n + 397, by omega⟩)) ∧
    (∀ (n : Nat) (h : 227 ≤ n ∧ n < 623), mtRead (twist mt) ⟨n, by omega⟩ =
      twistWord (mtRead mt ⟨n, by omega⟩) (mtRead mt ⟨n + 1, by omega⟩) (mtRead (twist mt) ⟨n - 227, by omega⟩)) ∧
    mtRead (twist mt) 623 =
      twistWord (mtRead mt 623) (mtRead (twist mt) 0) (mtRead (twist mt) 396)

/-- The word a twist writes, bit by bit: the far word, the mixed word shifted right by one, and the constant
`0x9908B0DF` when the low bit of the successor word is 1. -/
def Obligations.TwistWordBitByBit : Prop :=
  ∀ (cur succ far : Word32),
    (∀ i, i < 30 → (twistWord cur succ far).getLsbD i =
      ((far.getLsbD i ^^ succ.getLsbD (i + 1)) ^^ (succ.getLsbD 0 && (0x9908B0DF#32).getLsbD i))) ∧
    (twistWord cur succ far).getLsbD 30 = ((far.getLsbD 30 ^^ cur.getLsbD 31) ^^
      (succ.getLsbD 0 && (0x9908B0DF#32).getLsbD 30)) ∧
    (twistWord cur succ far).getLsbD 31 = (far.getLsbD 31 ^^ succ.getLsbD 0)

/-- R102: the four stages, each shifting its own input, and `Temper(0) = 0`. -/
def Obligations.TemperIsFourStages : Prop :=
  (∀ y y1 y2 y3 y4 : Word32, y1 = y ^^^ (y >>> 11) → y2 = y1 ^^^ ((y1 <<< 7) &&& 0x9D2C5680#32) →
      y3 = y2 ^^^ ((y2 <<< 15) &&& 0xEFC60000#32) → y4 = y3 ^^^ (y3 >>> 18) → temper y = y4) ∧
    temper 0#32 = 0#32

/-- Tempering loses nothing: it is a bijection on 32-bit values (41_generate.md section 2, where the spec marks this as
general knowledge). -/
def Obligations.TemperIsBijective : Prop := Function.Bijective temper

/-- `NEXT32`: on a seeded generator it answers the tempered word at `CURSOR` and moves on, twisting first when
`CURSOR = 624`; unseeded it raises `NotSeeded` and changes nothing else. -/
def Obligations.Next32TempersTheNextWord : Prop :=
  encode .next32 = 0x1000000000#40 ∧ ∀ s : State,
    (∀ c : Fin 624, s.cursor = .index c.castSucc → exec .next32 s = .next { s with
      cursor := .index c.succ, res := temper (mtRead s.mt c), resv := true }) ∧
    (s.cursor = .index 624 → exec .next32 s = .next { s with
      mt := twist s.mt, cursor := .index 1, res := temper (mtRead (twist s.mt) 0), resv := true }) ∧
    (s.cursor = .uninit → exec .next32 s = .next { s with
      fault := .notSeeded, fcmd := 0x1000000000#40, phase := .halt })

/-- `NEXT31` on a seeded generator: it leaves the state `NEXT32` would have left, but with `RES` shifted right by one,
whose bit 31 is zero; unseeded it raises `NotSeeded`. -/
def Obligations.Next31IsNext32ShiftedRight : Prop :=
  encode .next31 = 0x1100000000#40 ∧ ∀ s : State,
    (s.cursor ≠ .uninit → ∃ t, exec .next32 s = .next t ∧ exec .next31 s = .next { t with res := t.res >>> 1 } ∧
      (t.res >>> 1).getLsbD 31 = false ∧ t.resv = true) ∧
    (s.cursor = .uninit → exec .next31 s = .next { s with
      fault := .notSeeded, fcmd := 0x1100000000#40, phase := .halt })

/-- The output sequence after a seeding: output `n` is the tempered word `(n - 1) mod 624` of the array after one
twist for each 624 outputs begun, and the cursor is then `((n - 1) mod 624) + 1` (R103; the spec derives the
numbers of the calls that twist). -/
def Obligations.OutputsAreTemperedWordsOfTwists : Prop :=
  ∀ (mt : Mt) (n : Nat),
    (Gen.mk mt 624).output32 (n + 1) =
        temper (mtRead (twist^[n / 624 + 1] mt) ⟨n % 624, Nat.mod_lt _ (by decide)⟩) ∧
      ((Gen.mk mt 624).after (n + 1)).mt = twist^[n / 624 + 1] mt ∧
      ((Gen.mk mt 624).after (n + 1)).cursor.val = n % 624 + 1

/-- R107: after `SEEDI` and any sequence of `NEXT32` and `NEXT31`, the generator and the last output are the same
whatever the states they began in. -/
def Obligations.OutputsDependOnTheSeedAlone : Prop :=
  ∀ (imm : Word32) (is : List Instr) (s₁ s₂ : State), (∀ i ∈ is, i = .next32 ∨ i = .next31) →
    s₁.phase = .idle → s₂.phase = .idle → s₁.resetIn = false → s₂.resetIn = false →
    s₁.pending = (Instr.seedi imm :: is).map encode → s₂.pending = (Instr.seedi imm :: is).map encode →
    ∃ t₁ t₂, run (is.length + 1) s₁ = .next t₁ ∧ run (is.length + 1) s₂ = .next t₂ ∧
      t₁.pending = [] ∧ t₂.pending = [] ∧ t₁.phase = .idle ∧ t₂.phase = .idle ∧
      t₁.mt = t₂.mt ∧ t₁.cursor = t₂.cursor ∧ (is ≠ [] → t₁.resPort = t₂.resPort ∧ t₁.resv = true)

/-! ## The loop controller -/

/-- R120: `SETCAP` writes the cap, whatever its value and also before seeding, and nothing else; no status bit changes.
Nothing but a `SETCAP` changes the cap without a reset, so it cannot change while a `DRAW` runs. -/
def Obligations.SetcapAloneWritesTheCap : Prop :=
  (∀ (imm : Word32) (s : State), encode (.setcap imm) = 0x20#8 ++ imm ∧
      ∃ t, exec (.setcap imm) s = .next t ∧ t = { s with cap := imm } ∧ t.status = s.status) ∧
    ∀ s t : State, s.resetIn = false → step s = .next t → t.cap ≠ s.cap →
      s.phase = .idle ∧ ∃ imm rest, s.pending = encode (.setcap imm) :: rest ∧ t.cap = imm

/-- R121: the acceptance step of `DRAW`, with its two faults in their order; it consumes no output. -/
def Obligations.DrawBeginsTheWarmUp : Prop :=
  encode .draw = 0x2100000000#40 ∧ ∀ s : State,
    (s.cursor ≠ .uninit → s.platform.len ≠ 0 → ∃ t, exec .draw s = .next t ∧
      t = { s with qvalid := false, att := 0#32, slot := 0, phase := .warm } ∧
      t.status.getLsbD 0 = true ∧ t.status.getLsbD 3 = false) ∧
    (s.cursor = .uninit → exec .draw s = .next { s with
      fault := .notSeeded, fcmd := 0x2100000000#40, phase := .halt }) ∧
    (s.cursor ≠ .uninit → s.platform.len = 0 → exec .draw s = .next { s with
      fault := .emptyWordList, fcmd := 0x2100000000#40, phase := .halt })

/-- R122: a WARM step takes one output, discards it, and counts; four of them lead to FILL. -/
def Obligations.WarmUpDiscardsFourOutputs : Prop :=
  ∀ (s : State) (c : Fin 625), s.phase = .warm → s.resetIn = false → s.cursor = .index c →
    (s.slot = 3 → step s = .next { s with
      mt := ((Gen.mk s.mt c).after 1).mt, cursor := .index ((Gen.mk s.mt c).after 1).cursor
      slot := 0, phase := .fill }) ∧
    (s.slot ≠ 3 → step s = .next { s with
      mt := ((Gen.mk s.mt c).after 1).mt, cursor := .index ((Gen.mk s.mt c).after 1).cursor
      slot := s.slot + 1 }) ∧
    (s.slot = 0 → run 4 s = .next { s with
      mt := ((Gen.mk s.mt c).after 4).mt, cursor := .index ((Gen.mk s.mt c).after 4).cursor
      slot := 0, phase := .fill })

/-- R123: a FILL step draws the index `umod(r, L)` of the next 31-bit output and fetches its word into slot `SLOT`; the
fourth counts the attempt, without wrapping, and leads to CHECK. -/
def Obligations.FillDrawsOneIndexAndItsWord : Prop :=
  ∀ (s : State) (c : Fin 625), s.phase = .fill → s.resetIn = false → s.cursor = .index c → s.platform.len ≠ 0 →
    ∃ (q : BitVec 31) (w : Word), q.toNat = ((Gen.mk s.mt c).output31 1).toNat % s.platform.len ∧
      s.platform.wl[q.toNat]? = some w ∧
      (s.slot = 3 → step s = .next { s with
        mt := ((Gen.mk s.mt c).after 1).mt, cursor := .index ((Gen.mk s.mt c).after 1).cursor
        idx := s.idx.set 3 q, qw := s.qw.set 3 w
        att := BitVec.ofNat 32 (min (s.att.toNat + 1) (2 ^ 32 - 1)), phase := .check }) ∧
      (s.slot ≠ 3 → step s = .next { s with
        mt := ((Gen.mk s.mt c).after 1).mt, cursor := .index ((Gen.mk s.mt c).after 1).cursor
        idx := s.idx.set s.slot.val q, qw := s.qw.set s.slot.val w, slot := s.slot + 1 })

/-- Four FILL steps make one attempt: from slot 0 they take exactly 4 outputs, whatever words they fetch, and fill the
four slots in draw order (42_draw.md section 3, which derives the absence of an early exit). -/
def Obligations.AnAttemptTakesFourOutputs : Prop :=
  ∀ (s : State) (c : Fin 625), s.phase = .fill → s.resetIn = false → s.cursor = .index c → s.platform.len ≠ 0 →
    s.slot = 0 → ∃ t, run 4 s = .next t ∧ t.phase = .check ∧ t.slot = 3 ∧
      t.mt = ((Gen.mk s.mt c).after 4).mt ∧ t.cursor = .index ((Gen.mk s.mt c).after 4).cursor ∧
      ∀ k : Fin 4, (t.idx.get k).toNat = ((Gen.mk s.mt c).output31 (k.val + 1)).toNat % s.platform.len ∧
        s.platform.wl[(t.idx.get k).toNat]? = some (t.qw.get k)

/-- R124: the CHECK step tests acceptance before the cap, and on rejection goes back to FILL; it takes no output. -/
def Obligations.CheckAcceptsExhaustsOrRedraws : Prop :=
  ∀ s : State, s.phase = .check → s.resetIn = false →
    (s.accepted = true → step s = .next { s with qvalid := true, phase := .idle }) ∧
    (s.accepted = false → s.cap ≠ 0#32 → s.cap.toNat ≤ s.att.toNat → step s = .next { s with
      fault := .drawExhausted, fcmd := 0x2100000000#40, phase := .halt }) ∧
    (s.accepted = false → s.cap = 0#32 ∨ s.att.toNat < s.cap.toNat → step s = .next { s with
      slot := 0, phase := .fill })

/-- R125: the acceptance predicate says that the four words are pairwise distinct and none is in the exclusion set. -/
def Obligations.AcceptMeansDistinctAndUnexcluded : Prop :=
  ∀ (p : Platform) (w0 w1 w2 w3 : Word),
    acceptWords p w0 w1 w2 w3 = true ↔
      (w0 ≠ w1 ∧ w0 ≠ w2 ∧ w0 ≠ w3 ∧ w1 ≠ w2 ∧ w1 ≠ w3 ∧ w2 ≠ w3) ∧
        w0 ∉ p.ex ∧ w1 ∉ p.ex ∧ w2 ∉ p.ex ∧ w3 ∉ p.ex

/-- A `DRAW` as a whole, when the least accepted attempt is `a`, of any size, and the cap allows it (R126, which the spec
derives): after the acceptance step, 4 WARM steps and 5 steps an attempt, the block is idle with the candidate of attempt
`a`, `ATT = min(a, 2^32 - 1)` (the count saturates, R16), `4 + 4a` outputs taken, and every other register as it was. -/
def Obligations.DrawEndsAtTheFirstAcceptedAttempt : Prop :=
  ∀ (s : State) (c : Fin 625) (rest : List Cmd) (a : Nat), s.phase = .idle → s.resetIn = false →
    s.pending = encode .draw :: rest → s.cursor = .index c → s.platform.len ≠ 0 → 1 ≤ a →
    attemptAccepted s.platform (Gen.mk s.mt c) a = true →
    (∀ t, 1 ≤ t → t < a → attemptAccepted s.platform (Gen.mk s.mt c) t = false) →
    (s.cap = 0#32 ∨ a ≤ s.cap.toNat) →
    run (1 + 4 + 5 * a) s =
      .next { s.afterAttempts (Gen.mk s.mt c) a with pending := rest, qvalid := true, phase := .idle }

/-- A `DRAW` stopped by the cap (R127, which the spec derives): if no candidate up to the cap is accepted, the block
halts with `DrawExhausted` after exactly that many attempts, `QVALID = 0`, and every other register as it was. -/
def Obligations.DrawHaltsWhenTheCapIsExhausted : Prop :=
  ∀ (s : State) (c : Fin 625) (rest : List Cmd), s.phase = .idle → s.resetIn = false →
    s.pending = encode .draw :: rest → s.cursor = .index c → s.platform.len ≠ 0 → s.cap ≠ 0#32 →
    (∀ t, 1 ≤ t → t ≤ s.cap.toNat → attemptAccepted s.platform (Gen.mk s.mt c) t = false) →
    run (1 + 4 + 5 * s.cap.toNat) s =
      .next { s.afterAttempts (Gen.mk s.mt c) s.cap.toNat with
              pending := rest, fault := .drawExhausted, fcmd := 0x2100000000#40, phase := .halt }

/-- R129: without a cap, on a list with fewer than 4 distinct words that are not excluded, a running `DRAW` runs for
ever: after any number of steps the block is still busy and holds no quartet. -/
def Obligations.DrawNeverEndsWithoutFourWords : Prop :=
  ∀ (s : State) (n : Nat), Inv s → s.busy = true → s.resetIn = false → s.cap = 0#32 →
    (s.platform.wl.filter (fun w => !s.platform.excluded w)).toFinset.card < 4 →
    ∃ t, run n s = .next t ∧ t.busy = true ∧ t.qvalid = false

/-- Under a cap every presented `DRAW` is accepted and ends, within 5 steps an attempt and before any further command is
accepted: with a quartet of its own, or halted with `DrawExhausted` (42_draw.md sections 3 and 4). -/
def Obligations.CappedDrawEnds : Prop :=
  ∀ (s : State) (rest : List Cmd), Inv s → s.phase = .idle → s.resetIn = false → s.pending = encode .draw :: rest →
    s.cursor ≠ .uninit → s.platform.len ≠ 0 → s.cap ≠ 0#32 →
    ∃ n t, 1 ≤ n ∧ n ≤ 1 + 4 + 5 * s.cap.toNat ∧ run n s = .next t ∧ t.pending = rest ∧ t.att ≤ s.cap ∧
      ((t.phase = .idle ∧ t.qvalid = true) ∨ (t.phase = .halt ∧ t.fault = .drawExhausted ∧ t.qvalid = false))

/-! ## The whole machine -/

/-- Every step that answers a next state keeps the invariant. -/
def Obligations.StepKeepsTheInvariant : Prop := ∀ s t : State, Inv s → step s = .next t → Inv t

/-- The reset state meets the invariant, on whatever platform Config's open parameters are, and so does the reset state
on any platform within the bounds of R5 and with any commands handed over. -/
def Obligations.ResetMeetsTheInvariant : Prop :=
  Inv State.reset ∧ ∀ (p : Platform) (ws : List Cmd), p.wf → Inv { State.reset with platform := p, pending := ws }

/-- From every state that meets the invariant a step answers a next state: the model's own stops are never reached. -/
def Obligations.InvariantStatesNeverStop : Prop := ∀ s : State, Inv s → ∃ t, step s = .next t

/-- Every quartet shown is valid (R128, which the spec derives): whatever a run from a state of the invariant (the reset
state is one, ResetMeetsTheInvariant) comes to, whenever `QVALID = 1` the four words are pairwise distinct, none is
excluded, and each is the list's word at its index. -/
def Obligations.EveryQuartetShownIsValid : Prop :=
  ∀ (s : State) (n : Nat) (t : State), Inv s → run n s = .next t → t.qvalid = true →
    (∀ j k : Fin 4, j ≠ k → t.qw.get j ≠ t.qw.get k) ∧
      ∀ k : Fin 4, t.qw.get k ∉ s.platform.ex ∧ (t.idx.get k).toNat < s.platform.wl.length ∧
        s.platform.wl[(t.idx.get k).toNat]? = some (t.qw.get k)

/-- In a halted block `FAULT` and `FCMD` tell the cause that R151 to R155 give for the fault: every step keeps this. -/
def Obligations.FaultRecordsItsCause : Prop :=
  ∀ s t : State, Inv s → s.faultCause → step s = .next t → t.faultCause

/-- Which steps may change which registers, without a reset: the generator, `RES` and the key are written by their own
commands only, and the generator also by WARM and FILL. -/
def Obligations.RegistersAreWrittenByTheirOwnersOnly : Prop :=
  ∀ s t : State, s.resetIn = false → step s = .next t →
    ((t.mt ≠ s.mt ∨ t.cursor ≠ s.cursor) → s.phase = .warm ∨ s.phase = .fill ∨ (s.phase = .idle ∧
      ∃ i rest, s.pending = encode i :: rest ∧ ((∃ v, i = .seedi v) ∨ i = .seeda ∨ i = .next32 ∨ i = .next31))) ∧
    ((t.res ≠ s.res ∨ t.resv ≠ s.resv) → s.phase = .idle ∧
      ∃ i rest, s.pending = encode i :: rest ∧ (i = .next32 ∨ i = .next31)) ∧
    (t.key ≠ s.key → s.phase = .idle ∧
      ∃ i rest, s.pending = encode i :: rest ∧ (i = .keyclr ∨ ∃ v, i = .keypush v)) ∧
    ((t.idx ≠ s.idx ∨ t.qw ≠ s.qw) → s.phase = .fill)

/-- What is never lost without a reset: a seeded generator stays seeded, `RESV` stays set, a recorded fault stays; and
`QVALID` is set only by an accepting CHECK step and cleared only by the acceptance of a `DRAW`. -/
def Obligations.StatusBitsAreSticky : Prop :=
  ∀ s t : State, Inv s → s.resetIn = false → step s = .next t →
    (s.seeded = true → t.seeded = true) ∧ (s.resv = true → t.resv = true) ∧
    (s.fault ≠ .none → t.fault = s.fault ∧ t.fcmd = s.fcmd) ∧
    (s.qvalid = false → t.qvalid = true → s.phase = .check ∧ s.accepted = true) ∧
    (s.qvalid = true → t.qvalid = false → s.phase = .idle ∧ s.pending.head? = some (encode .draw))

/-- No step, a reset among them, changes the word list, the exclusion set or the capacity. -/
def Obligations.PlatformNeverChanges : Prop := ∀ s t : State, step s = .next t → t.platform = s.platform

/-- R132 (which the spec derives): `SEEDI` then `DRAW` on the same platform and cap shows the same quartet, attempts and
fault after every number of steps from the acceptance of the `DRAW` on, whatever the registers held before. -/
def Obligations.DrawAfterSeedShowsTheSame : Prop :=
  ∀ (imm : Word32) (n : Nat) (s₁ s₂ t₁ t₂ : State),
    s₁.phase = .idle → s₂.phase = .idle → s₁.resetIn = false → s₂.resetIn = false →
    s₁.fault = s₂.fault → s₁.platform = s₂.platform → s₁.platform.len ≠ 0 → s₁.cap = s₂.cap →
    s₁.pending = [encode (.seedi imm), encode .draw] → s₂.pending = [encode (.seedi imm), encode .draw] →
    run (2 + n) s₁ = .next t₁ → run (2 + n) s₂ = .next t₂ →
    t₁.phase = t₂.phase ∧ t₁.attPort = t₂.attPort ∧ t₁.fault = t₂.fault ∧ t₁.qvalid = t₂.qvalid ∧
      t₁.fcmdPort = t₂.fcmdPort ∧ ∀ k : Fin 4, t₁.idxPort k = t₂.idxPort k ∧ t₁.qwPort k = t₂.qwPort k

/-! ## Status and ports -/

/-- R22: the sixteen bits of `STATUS`.  `HALTED` is `PHASE = HALT`, equivalently `FAULT != 0` in the states of the
invariant. -/
def Obligations.StatusHasItsFields : Prop :=
  ∀ s : State,
    s.status.getLsbD 0 = (s.phase == .warm || s.phase == .fill || s.phase == .check) ∧
    s.status.getLsbD 1 = (s.cursor != .uninit) ∧
    s.status.getLsbD 2 = s.resv ∧ s.status.getLsbD 3 = s.qvalid ∧ s.status.getLsbD 4 = (s.phase == .halt) ∧
    (Inv s → (s.status.getLsbD 4 = true ↔ s.fault ≠ .none)) ∧
    s.status.extractLsb' 5 3 = 0#3 ∧ s.status.extractLsb' 8 3 = s.fault.code ∧ s.status.extractLsb' 11 5 = 0#5

/-- The codes of the five fault kinds (60_exceptions.md section 1). -/
def Obligations.FaultCodesAreOneToFive : Prop :=
  FaultKind.code .none = 0#3 ∧ FaultKind.code .illegalCommand = 1#3 ∧ FaultKind.code .notSeeded = 2#3 ∧
    FaultKind.code .invalidSeed = 3#3 ∧ FaultKind.code .emptyWordList = 4#3 ∧ FaultKind.code .drawExhausted = 5#3

/-- R70: each output port shows its register exactly when its valid condition holds, and nothing otherwise. -/
def Obligations.PortsShowOnlyValidRegisters : Prop :=
  ∀ s : State,
    (s.cmdReadyPort = true ↔ s.phase = .idle) ∧ s.statusPort = s.status ∧ s.attPort = s.att ∧
    (s.resv = true → s.resPort = some s.res) ∧ (s.resv = false → s.resPort = none) ∧
    (∀ k : Fin 4, (s.qvalid = true → s.idxPort k = some (s.idx.get k) ∧ s.qwPort k = some (s.qw.get k)) ∧
      (s.qvalid = false → s.idxPort k = none ∧ s.qwPort k = none)) ∧
    (s.phase = .halt → s.fcmdPort = some s.fcmd) ∧ (s.phase ≠ .halt → s.fcmdPort = none)

/-- The 10-bit encoding of `CURSOR`: `UNINIT` is 625, 626 to 1023 do not occur, and no two values share an encoding. -/
def Obligations.CursorEncodingIsInjective : Prop :=
  Cursor.encode .uninit = 625#10 ∧ (∀ c : Cursor, c.encode.toNat ≤ 625) ∧
    ∀ c d : Cursor, c.encode = d.encode → c = d

/-- R7: `umod(r, L)` for `L > 0` is the unique `q` below `L` with `r - q` a multiple of `L`. -/
def Obligations.UmodIsTheRemainder : Prop :=
  ∀ (r : BitVec 31) (len : Nat), 0 < len → (umod r len).toNat < len ∧
    (∃ k, r.toNat = k * len + (umod r len).toNat) ∧
    ∀ q k, q < len → r.toNat = k * len + q → (umod r len).toNat = q

/-- The primitives on numbers: every result is reduced modulo 2^32, the right shift is logical, the others are bitwise. -/
def Obligations.PrimitivesReduceModulo : Prop :=
  ∀ (a b : Word32) (n : Nat),
    (add32 a b).toNat = (a.toNat + b.toNat) % 2 ^ 32 ∧
    ((sub32 a b).toNat : Int) = ((a.toNat : Int) - b.toNat) % 2 ^ 32 ∧
    (mul32 a b).toNat = (a.toNat * b.toNat) % 2 ^ 32 ∧
    (shl32 a n).toNat = (a.toNat * 2 ^ n) % 2 ^ 32 ∧ (shr32 a n).toNat = a.toNat / 2 ^ n ∧
    ∀ i, (xor32 a b).getLsbD i = (a.getLsbD i ^^ b.getLsbD i) ∧
      (and32 a b).getLsbD i = (a.getLsbD i && b.getLsbD i) ∧ (or32 a b).getLsbD i = (a.getLsbD i || b.getLsbD i)
end

