-- ==== Sys2Proof/Laws/State.lean ====
section
/-! SUPPORT. One lemma per field per update of the state, each true by rfl, so that no proof unfolds a record
update; and the fields of the reset state that 10_state.md rule R27 gives a value. -/

namespace Sys2Proof.Machine

open Sys2Proof

/-! ## keyClear -/

@[simp] theorem State.keyClear_mt (s : State) : (s.keyClear).mt = s.mt := rfl
@[simp] theorem State.keyClear_cursor (s : State) : (s.keyClear).cursor = s.cursor := rfl
@[simp] theorem State.keyClear_res (s : State) : (s.keyClear).res = s.res := rfl
@[simp] theorem State.keyClear_resv (s : State) : (s.keyClear).resv = s.resv := rfl
@[simp] theorem State.keyClear_key (s : State) : (s.keyClear).key = [] := rfl
@[simp] theorem State.keyClear_cap (s : State) : (s.keyClear).cap = s.cap := rfl
@[simp] theorem State.keyClear_att (s : State) : (s.keyClear).att = s.att := rfl
@[simp] theorem State.keyClear_idx (s : State) : (s.keyClear).idx = s.idx := rfl
@[simp] theorem State.keyClear_qw (s : State) : (s.keyClear).qw = s.qw := rfl
@[simp] theorem State.keyClear_qvalid (s : State) : (s.keyClear).qvalid = s.qvalid := rfl
@[simp] theorem State.keyClear_phase (s : State) : (s.keyClear).phase = s.phase := rfl
@[simp] theorem State.keyClear_slot (s : State) : (s.keyClear).slot = s.slot := rfl
@[simp] theorem State.keyClear_fault (s : State) : (s.keyClear).fault = s.fault := rfl
@[simp] theorem State.keyClear_fcmd (s : State) : (s.keyClear).fcmd = s.fcmd := rfl
@[simp] theorem State.keyClear_platform (s : State) : (s.keyClear).platform = s.platform := rfl
@[simp] theorem State.keyClear_pending (s : State) : (s.keyClear).pending = s.pending := rfl
@[simp] theorem State.keyClear_resetIn (s : State) : (s.keyClear).resetIn = s.resetIn := rfl

/-! ## keyAppend -/

@[simp] theorem State.keyAppend_mt (s : State) (v : Word32) : (s.keyAppend v).mt = s.mt := rfl
@[simp] theorem State.keyAppend_cursor (s : State) (v : Word32) : (s.keyAppend v).cursor = s.cursor := rfl
@[simp] theorem State.keyAppend_res (s : State) (v : Word32) : (s.keyAppend v).res = s.res := rfl
@[simp] theorem State.keyAppend_resv (s : State) (v : Word32) : (s.keyAppend v).resv = s.resv := rfl
@[simp] theorem State.keyAppend_key (s : State) (v : Word32) : (s.keyAppend v).key = s.key ++ [v] := rfl
@[simp] theorem State.keyAppend_cap (s : State) (v : Word32) : (s.keyAppend v).cap = s.cap := rfl
@[simp] theorem State.keyAppend_att (s : State) (v : Word32) : (s.keyAppend v).att = s.att := rfl
@[simp] theorem State.keyAppend_idx (s : State) (v : Word32) : (s.keyAppend v).idx = s.idx := rfl
@[simp] theorem State.keyAppend_qw (s : State) (v : Word32) : (s.keyAppend v).qw = s.qw := rfl
@[simp] theorem State.keyAppend_qvalid (s : State) (v : Word32) : (s.keyAppend v).qvalid = s.qvalid := rfl
@[simp] theorem State.keyAppend_phase (s : State) (v : Word32) : (s.keyAppend v).phase = s.phase := rfl
@[simp] theorem State.keyAppend_slot (s : State) (v : Word32) : (s.keyAppend v).slot = s.slot := rfl
@[simp] theorem State.keyAppend_fault (s : State) (v : Word32) : (s.keyAppend v).fault = s.fault := rfl
@[simp] theorem State.keyAppend_fcmd (s : State) (v : Word32) : (s.keyAppend v).fcmd = s.fcmd := rfl
@[simp] theorem State.keyAppend_platform (s : State) (v : Word32) : (s.keyAppend v).platform = s.platform := rfl
@[simp] theorem State.keyAppend_pending (s : State) (v : Word32) : (s.keyAppend v).pending = s.pending := rfl
@[simp] theorem State.keyAppend_resetIn (s : State) (v : Word32) : (s.keyAppend v).resetIn = s.resetIn := rfl

/-! ## withGen -/

@[simp] theorem State.withGen_mt (s : State) (g : Gen) : (s.withGen g).mt = g.mt := rfl
@[simp] theorem State.withGen_cursor (s : State) (g : Gen) : (s.withGen g).cursor = .index g.cursor := rfl
@[simp] theorem State.withGen_res (s : State) (g : Gen) : (s.withGen g).res = s.res := rfl
@[simp] theorem State.withGen_resv (s : State) (g : Gen) : (s.withGen g).resv = s.resv := rfl
@[simp] theorem State.withGen_key (s : State) (g : Gen) : (s.withGen g).key = s.key := rfl
@[simp] theorem State.withGen_cap (s : State) (g : Gen) : (s.withGen g).cap = s.cap := rfl
@[simp] theorem State.withGen_att (s : State) (g : Gen) : (s.withGen g).att = s.att := rfl
@[simp] theorem State.withGen_idx (s : State) (g : Gen) : (s.withGen g).idx = s.idx := rfl
@[simp] theorem State.withGen_qw (s : State) (g : Gen) : (s.withGen g).qw = s.qw := rfl
@[simp] theorem State.withGen_qvalid (s : State) (g : Gen) : (s.withGen g).qvalid = s.qvalid := rfl
@[simp] theorem State.withGen_phase (s : State) (g : Gen) : (s.withGen g).phase = s.phase := rfl
@[simp] theorem State.withGen_slot (s : State) (g : Gen) : (s.withGen g).slot = s.slot := rfl
@[simp] theorem State.withGen_fault (s : State) (g : Gen) : (s.withGen g).fault = s.fault := rfl
@[simp] theorem State.withGen_fcmd (s : State) (g : Gen) : (s.withGen g).fcmd = s.fcmd := rfl
@[simp] theorem State.withGen_platform (s : State) (g : Gen) : (s.withGen g).platform = s.platform := rfl
@[simp] theorem State.withGen_pending (s : State) (g : Gen) : (s.withGen g).pending = s.pending := rfl
@[simp] theorem State.withGen_resetIn (s : State) (g : Gen) : (s.withGen g).resetIn = s.resetIn := rfl

/-! ## withRes -/

@[simp] theorem State.withRes_mt (s : State) (v : Word32) : (s.withRes v).mt = s.mt := rfl
@[simp] theorem State.withRes_cursor (s : State) (v : Word32) : (s.withRes v).cursor = s.cursor := rfl
@[simp] theorem State.withRes_res (s : State) (v : Word32) : (s.withRes v).res = v := rfl
@[simp] theorem State.withRes_resv (s : State) (v : Word32) : (s.withRes v).resv = true := rfl
@[simp] theorem State.withRes_key (s : State) (v : Word32) : (s.withRes v).key = s.key := rfl
@[simp] theorem State.withRes_cap (s : State) (v : Word32) : (s.withRes v).cap = s.cap := rfl
@[simp] theorem State.withRes_att (s : State) (v : Word32) : (s.withRes v).att = s.att := rfl
@[simp] theorem State.withRes_idx (s : State) (v : Word32) : (s.withRes v).idx = s.idx := rfl
@[simp] theorem State.withRes_qw (s : State) (v : Word32) : (s.withRes v).qw = s.qw := rfl
@[simp] theorem State.withRes_qvalid (s : State) (v : Word32) : (s.withRes v).qvalid = s.qvalid := rfl
@[simp] theorem State.withRes_phase (s : State) (v : Word32) : (s.withRes v).phase = s.phase := rfl
@[simp] theorem State.withRes_slot (s : State) (v : Word32) : (s.withRes v).slot = s.slot := rfl
@[simp] theorem State.withRes_fault (s : State) (v : Word32) : (s.withRes v).fault = s.fault := rfl
@[simp] theorem State.withRes_fcmd (s : State) (v : Word32) : (s.withRes v).fcmd = s.fcmd := rfl
@[simp] theorem State.withRes_platform (s : State) (v : Word32) : (s.withRes v).platform = s.platform := rfl
@[simp] theorem State.withRes_pending (s : State) (v : Word32) : (s.withRes v).pending = s.pending := rfl
@[simp] theorem State.withRes_resetIn (s : State) (v : Word32) : (s.withRes v).resetIn = s.resetIn := rfl

/-! ## withCap -/

@[simp] theorem State.withCap_mt (s : State) (v : Word32) : (s.withCap v).mt = s.mt := rfl
@[simp] theorem State.withCap_cursor (s : State) (v : Word32) : (s.withCap v).cursor = s.cursor := rfl
@[simp] theorem State.withCap_res (s : State) (v : Word32) : (s.withCap v).res = s.res := rfl
@[simp] theorem State.withCap_resv (s : State) (v : Word32) : (s.withCap v).resv = s.resv := rfl
@[simp] theorem State.withCap_key (s : State) (v : Word32) : (s.withCap v).key = s.key := rfl
@[simp] theorem State.withCap_cap (s : State) (v : Word32) : (s.withCap v).cap = v := rfl
@[simp] theorem State.withCap_att (s : State) (v : Word32) : (s.withCap v).att = s.att := rfl
@[simp] theorem State.withCap_idx (s : State) (v : Word32) : (s.withCap v).idx = s.idx := rfl
@[simp] theorem State.withCap_qw (s : State) (v : Word32) : (s.withCap v).qw = s.qw := rfl
@[simp] theorem State.withCap_qvalid (s : State) (v : Word32) : (s.withCap v).qvalid = s.qvalid := rfl
@[simp] theorem State.withCap_phase (s : State) (v : Word32) : (s.withCap v).phase = s.phase := rfl
@[simp] theorem State.withCap_slot (s : State) (v : Word32) : (s.withCap v).slot = s.slot := rfl
@[simp] theorem State.withCap_fault (s : State) (v : Word32) : (s.withCap v).fault = s.fault := rfl
@[simp] theorem State.withCap_fcmd (s : State) (v : Word32) : (s.withCap v).fcmd = s.fcmd := rfl
@[simp] theorem State.withCap_platform (s : State) (v : Word32) : (s.withCap v).platform = s.platform := rfl
@[simp] theorem State.withCap_pending (s : State) (v : Word32) : (s.withCap v).pending = s.pending := rfl
@[simp] theorem State.withCap_resetIn (s : State) (v : Word32) : (s.withCap v).resetIn = s.resetIn := rfl

/-! ## beginDraw -/

@[simp] theorem State.beginDraw_mt (s : State) : (s.beginDraw).mt = s.mt := rfl
@[simp] theorem State.beginDraw_cursor (s : State) : (s.beginDraw).cursor = s.cursor := rfl
@[simp] theorem State.beginDraw_res (s : State) : (s.beginDraw).res = s.res := rfl
@[simp] theorem State.beginDraw_resv (s : State) : (s.beginDraw).resv = s.resv := rfl
@[simp] theorem State.beginDraw_key (s : State) : (s.beginDraw).key = s.key := rfl
@[simp] theorem State.beginDraw_cap (s : State) : (s.beginDraw).cap = s.cap := rfl
@[simp] theorem State.beginDraw_att (s : State) : (s.beginDraw).att = 0#32 := rfl
@[simp] theorem State.beginDraw_idx (s : State) : (s.beginDraw).idx = s.idx := rfl
@[simp] theorem State.beginDraw_qw (s : State) : (s.beginDraw).qw = s.qw := rfl
@[simp] theorem State.beginDraw_qvalid (s : State) : (s.beginDraw).qvalid = false := rfl
@[simp] theorem State.beginDraw_phase (s : State) : (s.beginDraw).phase = .warm := rfl
@[simp] theorem State.beginDraw_slot (s : State) : (s.beginDraw).slot = 0 := rfl
@[simp] theorem State.beginDraw_fault (s : State) : (s.beginDraw).fault = s.fault := rfl
@[simp] theorem State.beginDraw_fcmd (s : State) : (s.beginDraw).fcmd = s.fcmd := rfl
@[simp] theorem State.beginDraw_platform (s : State) : (s.beginDraw).platform = s.platform := rfl
@[simp] theorem State.beginDraw_pending (s : State) : (s.beginDraw).pending = s.pending := rfl
@[simp] theorem State.beginDraw_resetIn (s : State) : (s.beginDraw).resetIn = s.resetIn := rfl

/-! ## sequence -/

@[simp] theorem State.sequence_mt (s : State) (p : Phase) (k : Fin 4) : (s.sequence p k).mt = s.mt := rfl
@[simp] theorem State.sequence_cursor (s : State) (p : Phase) (k : Fin 4) : (s.sequence p k).cursor = s.cursor := rfl
@[simp] theorem State.sequence_res (s : State) (p : Phase) (k : Fin 4) : (s.sequence p k).res = s.res := rfl
@[simp] theorem State.sequence_resv (s : State) (p : Phase) (k : Fin 4) : (s.sequence p k).resv = s.resv := rfl
@[simp] theorem State.sequence_key (s : State) (p : Phase) (k : Fin 4) : (s.sequence p k).key = s.key := rfl
@[simp] theorem State.sequence_cap (s : State) (p : Phase) (k : Fin 4) : (s.sequence p k).cap = s.cap := rfl
@[simp] theorem State.sequence_att (s : State) (p : Phase) (k : Fin 4) : (s.sequence p k).att = s.att := rfl
@[simp] theorem State.sequence_idx (s : State) (p : Phase) (k : Fin 4) : (s.sequence p k).idx = s.idx := rfl
@[simp] theorem State.sequence_qw (s : State) (p : Phase) (k : Fin 4) : (s.sequence p k).qw = s.qw := rfl
@[simp] theorem State.sequence_qvalid (s : State) (p : Phase) (k : Fin 4) : (s.sequence p k).qvalid = s.qvalid := rfl
@[simp] theorem State.sequence_phase (s : State) (p : Phase) (k : Fin 4) : (s.sequence p k).phase = p := rfl
@[simp] theorem State.sequence_slot (s : State) (p : Phase) (k : Fin 4) : (s.sequence p k).slot = k := rfl
@[simp] theorem State.sequence_fault (s : State) (p : Phase) (k : Fin 4) : (s.sequence p k).fault = s.fault := rfl
@[simp] theorem State.sequence_fcmd (s : State) (p : Phase) (k : Fin 4) : (s.sequence p k).fcmd = s.fcmd := rfl
@[simp] theorem State.sequence_platform (s : State) (p : Phase) (k : Fin 4) : (s.sequence p k).platform = s.platform := rfl
@[simp] theorem State.sequence_pending (s : State) (p : Phase) (k : Fin 4) : (s.sequence p k).pending = s.pending := rfl
@[simp] theorem State.sequence_resetIn (s : State) (p : Phase) (k : Fin 4) : (s.sequence p k).resetIn = s.resetIn := rfl

/-! ## latch -/

@[simp] theorem State.latch_mt (s : State) (q : BitVec 31) (w : Word) : (s.latch q w).mt = s.mt := rfl
@[simp] theorem State.latch_cursor (s : State) (q : BitVec 31) (w : Word) : (s.latch q w).cursor = s.cursor := rfl
@[simp] theorem State.latch_res (s : State) (q : BitVec 31) (w : Word) : (s.latch q w).res = s.res := rfl
@[simp] theorem State.latch_resv (s : State) (q : BitVec 31) (w : Word) : (s.latch q w).resv = s.resv := rfl
@[simp] theorem State.latch_key (s : State) (q : BitVec 31) (w : Word) : (s.latch q w).key = s.key := rfl
@[simp] theorem State.latch_cap (s : State) (q : BitVec 31) (w : Word) : (s.latch q w).cap = s.cap := rfl
@[simp] theorem State.latch_att (s : State) (q : BitVec 31) (w : Word) : (s.latch q w).att = s.att := rfl
@[simp] theorem State.latch_idx (s : State) (q : BitVec 31) (w : Word) : (s.latch q w).idx = s.idx.set s.slot.val q s.slot.isLt := rfl
@[simp] theorem State.latch_qw (s : State) (q : BitVec 31) (w : Word) : (s.latch q w).qw = s.qw.set s.slot.val w s.slot.isLt := rfl
@[simp] theorem State.latch_qvalid (s : State) (q : BitVec 31) (w : Word) : (s.latch q w).qvalid = s.qvalid := rfl
@[simp] theorem State.latch_phase (s : State) (q : BitVec 31) (w : Word) : (s.latch q w).phase = s.phase := rfl
@[simp] theorem State.latch_slot (s : State) (q : BitVec 31) (w : Word) : (s.latch q w).slot = s.slot := rfl
@[simp] theorem State.latch_fault (s : State) (q : BitVec 31) (w : Word) : (s.latch q w).fault = s.fault := rfl
@[simp] theorem State.latch_fcmd (s : State) (q : BitVec 31) (w : Word) : (s.latch q w).fcmd = s.fcmd := rfl
@[simp] theorem State.latch_platform (s : State) (q : BitVec 31) (w : Word) : (s.latch q w).platform = s.platform := rfl
@[simp] theorem State.latch_pending (s : State) (q : BitVec 31) (w : Word) : (s.latch q w).pending = s.pending := rfl
@[simp] theorem State.latch_resetIn (s : State) (q : BitVec 31) (w : Word) : (s.latch q w).resetIn = s.resetIn := rfl

/-! ## countAttempt -/

@[simp] theorem State.countAttempt_mt (s : State) : (s.countAttempt).mt = s.mt := rfl
@[simp] theorem State.countAttempt_cursor (s : State) : (s.countAttempt).cursor = s.cursor := rfl
@[simp] theorem State.countAttempt_res (s : State) : (s.countAttempt).res = s.res := rfl
@[simp] theorem State.countAttempt_resv (s : State) : (s.countAttempt).resv = s.resv := rfl
@[simp] theorem State.countAttempt_key (s : State) : (s.countAttempt).key = s.key := rfl
@[simp] theorem State.countAttempt_cap (s : State) : (s.countAttempt).cap = s.cap := rfl
@[simp] theorem State.countAttempt_att (s : State) : (s.countAttempt).att = attSucc s.att := rfl
@[simp] theorem State.countAttempt_idx (s : State) : (s.countAttempt).idx = s.idx := rfl
@[simp] theorem State.countAttempt_qw (s : State) : (s.countAttempt).qw = s.qw := rfl
@[simp] theorem State.countAttempt_qvalid (s : State) : (s.countAttempt).qvalid = s.qvalid := rfl
@[simp] theorem State.countAttempt_phase (s : State) : (s.countAttempt).phase = s.phase := rfl
@[simp] theorem State.countAttempt_slot (s : State) : (s.countAttempt).slot = s.slot := rfl
@[simp] theorem State.countAttempt_fault (s : State) : (s.countAttempt).fault = s.fault := rfl
@[simp] theorem State.countAttempt_fcmd (s : State) : (s.countAttempt).fcmd = s.fcmd := rfl
@[simp] theorem State.countAttempt_platform (s : State) : (s.countAttempt).platform = s.platform := rfl
@[simp] theorem State.countAttempt_pending (s : State) : (s.countAttempt).pending = s.pending := rfl
@[simp] theorem State.countAttempt_resetIn (s : State) : (s.countAttempt).resetIn = s.resetIn := rfl

/-! ## finishDraw -/

@[simp] theorem State.finishDraw_mt (s : State) : (s.finishDraw).mt = s.mt := rfl
@[simp] theorem State.finishDraw_cursor (s : State) : (s.finishDraw).cursor = s.cursor := rfl
@[simp] theorem State.finishDraw_res (s : State) : (s.finishDraw).res = s.res := rfl
@[simp] theorem State.finishDraw_resv (s : State) : (s.finishDraw).resv = s.resv := rfl
@[simp] theorem State.finishDraw_key (s : State) : (s.finishDraw).key = s.key := rfl
@[simp] theorem State.finishDraw_cap (s : State) : (s.finishDraw).cap = s.cap := rfl
@[simp] theorem State.finishDraw_att (s : State) : (s.finishDraw).att = s.att := rfl
@[simp] theorem State.finishDraw_idx (s : State) : (s.finishDraw).idx = s.idx := rfl
@[simp] theorem State.finishDraw_qw (s : State) : (s.finishDraw).qw = s.qw := rfl
@[simp] theorem State.finishDraw_qvalid (s : State) : (s.finishDraw).qvalid = true := rfl
@[simp] theorem State.finishDraw_phase (s : State) : (s.finishDraw).phase = .idle := rfl
@[simp] theorem State.finishDraw_slot (s : State) : (s.finishDraw).slot = s.slot := rfl
@[simp] theorem State.finishDraw_fault (s : State) : (s.finishDraw).fault = s.fault := rfl
@[simp] theorem State.finishDraw_fcmd (s : State) : (s.finishDraw).fcmd = s.fcmd := rfl
@[simp] theorem State.finishDraw_platform (s : State) : (s.finishDraw).platform = s.platform := rfl
@[simp] theorem State.finishDraw_pending (s : State) : (s.finishDraw).pending = s.pending := rfl
@[simp] theorem State.finishDraw_resetIn (s : State) : (s.finishDraw).resetIn = s.resetIn := rfl

/-! ## raise -/

@[simp] theorem State.raise_mt (s : State) (k : FaultKind) (w : Cmd) : (s.raise k w).mt = s.mt := rfl
@[simp] theorem State.raise_cursor (s : State) (k : FaultKind) (w : Cmd) : (s.raise k w).cursor = s.cursor := rfl
@[simp] theorem State.raise_res (s : State) (k : FaultKind) (w : Cmd) : (s.raise k w).res = s.res := rfl
@[simp] theorem State.raise_resv (s : State) (k : FaultKind) (w : Cmd) : (s.raise k w).resv = s.resv := rfl
@[simp] theorem State.raise_key (s : State) (k : FaultKind) (w : Cmd) : (s.raise k w).key = s.key := rfl
@[simp] theorem State.raise_cap (s : State) (k : FaultKind) (w : Cmd) : (s.raise k w).cap = s.cap := rfl
@[simp] theorem State.raise_att (s : State) (k : FaultKind) (w : Cmd) : (s.raise k w).att = s.att := rfl
@[simp] theorem State.raise_idx (s : State) (k : FaultKind) (w : Cmd) : (s.raise k w).idx = s.idx := rfl
@[simp] theorem State.raise_qw (s : State) (k : FaultKind) (w : Cmd) : (s.raise k w).qw = s.qw := rfl
@[simp] theorem State.raise_qvalid (s : State) (k : FaultKind) (w : Cmd) : (s.raise k w).qvalid = s.qvalid := rfl
@[simp] theorem State.raise_phase (s : State) (k : FaultKind) (w : Cmd) : (s.raise k w).phase = .halt := rfl
@[simp] theorem State.raise_slot (s : State) (k : FaultKind) (w : Cmd) : (s.raise k w).slot = s.slot := rfl
@[simp] theorem State.raise_fault (s : State) (k : FaultKind) (w : Cmd) : (s.raise k w).fault = k := rfl
@[simp] theorem State.raise_fcmd (s : State) (k : FaultKind) (w : Cmd) : (s.raise k w).fcmd = w := rfl
@[simp] theorem State.raise_platform (s : State) (k : FaultKind) (w : Cmd) : (s.raise k w).platform = s.platform := rfl
@[simp] theorem State.raise_pending (s : State) (k : FaultKind) (w : Cmd) : (s.raise k w).pending = s.pending := rfl
@[simp] theorem State.raise_resetIn (s : State) (k : FaultKind) (w : Cmd) : (s.raise k w).resetIn = s.resetIn := rfl

/-! ## hardReset -/

@[simp] theorem State.hardReset_mt (s : State) : (s.hardReset).mt = State.reset.mt := rfl
@[simp] theorem State.hardReset_cursor (s : State) : (s.hardReset).cursor = State.reset.cursor := rfl
@[simp] theorem State.hardReset_res (s : State) : (s.hardReset).res = State.reset.res := rfl
@[simp] theorem State.hardReset_resv (s : State) : (s.hardReset).resv = State.reset.resv := rfl
@[simp] theorem State.hardReset_key (s : State) : (s.hardReset).key = State.reset.key := rfl
@[simp] theorem State.hardReset_cap (s : State) : (s.hardReset).cap = State.reset.cap := rfl
@[simp] theorem State.hardReset_att (s : State) : (s.hardReset).att = State.reset.att := rfl
@[simp] theorem State.hardReset_idx (s : State) : (s.hardReset).idx = State.reset.idx := rfl
@[simp] theorem State.hardReset_qw (s : State) : (s.hardReset).qw = State.reset.qw := rfl
@[simp] theorem State.hardReset_qvalid (s : State) : (s.hardReset).qvalid = State.reset.qvalid := rfl
@[simp] theorem State.hardReset_phase (s : State) : (s.hardReset).phase = State.reset.phase := rfl
@[simp] theorem State.hardReset_slot (s : State) : (s.hardReset).slot = State.reset.slot := rfl
@[simp] theorem State.hardReset_fault (s : State) : (s.hardReset).fault = State.reset.fault := rfl
@[simp] theorem State.hardReset_fcmd (s : State) : (s.hardReset).fcmd = State.reset.fcmd := rfl
@[simp] theorem State.hardReset_platform (s : State) : (s.hardReset).platform = s.platform := rfl
@[simp] theorem State.hardReset_pending (s : State) : (s.hardReset).pending = s.pending.tail := rfl
@[simp] theorem State.hardReset_resetIn (s : State) : (s.hardReset).resetIn = State.reset.resetIn := rfl

/-! ## present -/

@[simp] theorem State.present_mt (s : State) (w : Cmd) : (s.present w).mt = s.mt := rfl
@[simp] theorem State.present_cursor (s : State) (w : Cmd) : (s.present w).cursor = s.cursor := rfl
@[simp] theorem State.present_res (s : State) (w : Cmd) : (s.present w).res = s.res := rfl
@[simp] theorem State.present_resv (s : State) (w : Cmd) : (s.present w).resv = s.resv := rfl
@[simp] theorem State.present_key (s : State) (w : Cmd) : (s.present w).key = s.key := rfl
@[simp] theorem State.present_cap (s : State) (w : Cmd) : (s.present w).cap = s.cap := rfl
@[simp] theorem State.present_att (s : State) (w : Cmd) : (s.present w).att = s.att := rfl
@[simp] theorem State.present_idx (s : State) (w : Cmd) : (s.present w).idx = s.idx := rfl
@[simp] theorem State.present_qw (s : State) (w : Cmd) : (s.present w).qw = s.qw := rfl
@[simp] theorem State.present_qvalid (s : State) (w : Cmd) : (s.present w).qvalid = s.qvalid := rfl
@[simp] theorem State.present_phase (s : State) (w : Cmd) : (s.present w).phase = s.phase := rfl
@[simp] theorem State.present_slot (s : State) (w : Cmd) : (s.present w).slot = s.slot := rfl
@[simp] theorem State.present_fault (s : State) (w : Cmd) : (s.present w).fault = s.fault := rfl
@[simp] theorem State.present_fcmd (s : State) (w : Cmd) : (s.present w).fcmd = s.fcmd := rfl
@[simp] theorem State.present_platform (s : State) (w : Cmd) : (s.present w).platform = s.platform := rfl
@[simp] theorem State.present_pending (s : State) (w : Cmd) : (s.present w).pending = w :: s.pending := rfl
@[simp] theorem State.present_resetIn (s : State) (w : Cmd) : (s.present w).resetIn = s.resetIn := rfl

/-! ## withPending -/

@[simp] theorem State.withPending_mt (s : State) (ws : List Cmd) : (s.withPending ws).mt = s.mt := rfl
@[simp] theorem State.withPending_cursor (s : State) (ws : List Cmd) : (s.withPending ws).cursor = s.cursor := rfl
@[simp] theorem State.withPending_res (s : State) (ws : List Cmd) : (s.withPending ws).res = s.res := rfl
@[simp] theorem State.withPending_resv (s : State) (ws : List Cmd) : (s.withPending ws).resv = s.resv := rfl
@[simp] theorem State.withPending_key (s : State) (ws : List Cmd) : (s.withPending ws).key = s.key := rfl
@[simp] theorem State.withPending_cap (s : State) (ws : List Cmd) : (s.withPending ws).cap = s.cap := rfl
@[simp] theorem State.withPending_att (s : State) (ws : List Cmd) : (s.withPending ws).att = s.att := rfl
@[simp] theorem State.withPending_idx (s : State) (ws : List Cmd) : (s.withPending ws).idx = s.idx := rfl
@[simp] theorem State.withPending_qw (s : State) (ws : List Cmd) : (s.withPending ws).qw = s.qw := rfl
@[simp] theorem State.withPending_qvalid (s : State) (ws : List Cmd) : (s.withPending ws).qvalid = s.qvalid := rfl
@[simp] theorem State.withPending_phase (s : State) (ws : List Cmd) : (s.withPending ws).phase = s.phase := rfl
@[simp] theorem State.withPending_slot (s : State) (ws : List Cmd) : (s.withPending ws).slot = s.slot := rfl
@[simp] theorem State.withPending_fault (s : State) (ws : List Cmd) : (s.withPending ws).fault = s.fault := rfl
@[simp] theorem State.withPending_fcmd (s : State) (ws : List Cmd) : (s.withPending ws).fcmd = s.fcmd := rfl
@[simp] theorem State.withPending_platform (s : State) (ws : List Cmd) : (s.withPending ws).platform = s.platform := rfl
@[simp] theorem State.withPending_pending (s : State) (ws : List Cmd) : (s.withPending ws).pending = ws := rfl
@[simp] theorem State.withPending_resetIn (s : State) (ws : List Cmd) : (s.withPending ws).resetIn = s.resetIn := rfl

/-! ## assertReset -/

@[simp] theorem State.assertReset_mt (s : State) : (s.assertReset).mt = s.mt := rfl
@[simp] theorem State.assertReset_cursor (s : State) : (s.assertReset).cursor = s.cursor := rfl
@[simp] theorem State.assertReset_res (s : State) : (s.assertReset).res = s.res := rfl
@[simp] theorem State.assertReset_resv (s : State) : (s.assertReset).resv = s.resv := rfl
@[simp] theorem State.assertReset_key (s : State) : (s.assertReset).key = s.key := rfl
@[simp] theorem State.assertReset_cap (s : State) : (s.assertReset).cap = s.cap := rfl
@[simp] theorem State.assertReset_att (s : State) : (s.assertReset).att = s.att := rfl
@[simp] theorem State.assertReset_idx (s : State) : (s.assertReset).idx = s.idx := rfl
@[simp] theorem State.assertReset_qw (s : State) : (s.assertReset).qw = s.qw := rfl
@[simp] theorem State.assertReset_qvalid (s : State) : (s.assertReset).qvalid = s.qvalid := rfl
@[simp] theorem State.assertReset_phase (s : State) : (s.assertReset).phase = s.phase := rfl
@[simp] theorem State.assertReset_slot (s : State) : (s.assertReset).slot = s.slot := rfl
@[simp] theorem State.assertReset_fault (s : State) : (s.assertReset).fault = s.fault := rfl
@[simp] theorem State.assertReset_fcmd (s : State) : (s.assertReset).fcmd = s.fcmd := rfl
@[simp] theorem State.assertReset_platform (s : State) : (s.assertReset).platform = s.platform := rfl
@[simp] theorem State.assertReset_pending (s : State) : (s.assertReset).pending = s.pending := rfl
@[simp] theorem State.assertReset_resetIn (s : State) : (s.assertReset).resetIn = true := rfl

/-! ## The reset state (10_state.md rule R27) -/

@[simp] theorem State.reset_cursor : State.reset.cursor = .uninit := rfl
@[simp] theorem State.reset_resv : State.reset.resv = false := rfl
@[simp] theorem State.reset_key : State.reset.key = [] := rfl
@[simp] theorem State.reset_cap : State.reset.cap = 0#32 := rfl
@[simp] theorem State.reset_att : State.reset.att = 0#32 := rfl
@[simp] theorem State.reset_qvalid : State.reset.qvalid = false := rfl
@[simp] theorem State.reset_phase : State.reset.phase = .idle := rfl
@[simp] theorem State.reset_slot : State.reset.slot = 0 := rfl
@[simp] theorem State.reset_fault : State.reset.fault = .none := rfl
@[simp] theorem State.reset_platform : State.reset.platform = Platform.configured := rfl
@[simp] theorem State.reset_pending : State.reset.pending = [] := rfl
@[simp] theorem State.reset_resetIn : State.reset.resetIn = false := rfl

end Sys2Proof.Machine
end

