-- ==== Sys2Proof/Laws/Ops.lean ====
section
/-! SUPPORT. What the named operations of Machine/Ops.lean do, each said once: reads after writes, the key buffer and
its canonical form, the remainder and the word list, the generator registers. -/

namespace Sys2Proof.Machine

open Sys2Proof

/-! ## MT (20_memory.md rule R41) -/

@[simp] theorem mtRead_mtWrite_same (mt : Mt) (i : Fin 624) (v : Word32) : mtRead (mtWrite mt i v) i = v := by
  simp [mtRead, mtWrite, Vector.get_eq_getElem]

theorem mtRead_mtWrite_ne (mt : Mt) (i j : Fin 624) (v : Word32) (h : j ≠ i) :
    mtRead (mtWrite mt i v) j = mtRead mt j := by
  have h' : i.val ≠ j.val := fun e => h (Fin.ext e.symm)
  simp [mtRead, mtWrite, Vector.get_eq_getElem, h']

theorem mtRead_mtWrite (mt : Mt) (i j : Fin 624) (v : Word32) :
    mtRead (mtWrite mt i v) j = if j = i then v else mtRead mt j := by
  by_cases h : j = i
  · rw [if_pos h, h, mtRead_mtWrite_same]
  · rw [if_neg h, mtRead_mtWrite_ne _ _ _ _ h]

/-- Two arrays with the same elements are the same array. -/
theorem mt_ext {a b : Mt} (h : ∀ i, mtRead a i = mtRead b i) : a = b := by
  apply Vector.ext
  intro i hi
  have := h ⟨i, hi⟩
  simpa [mtRead, Vector.get_eq_getElem] using this

/-! ## KEY (20_memory.md rule R42) -/

@[simp] theorem keylen_keyClear (s : State) : s.keyClear.keylen = 0 := rfl

@[simp] theorem keylen_keyAppend (s : State) (v : Word32) : (s.keyAppend v).keylen = s.keylen + 1 := by
  simp [State.keylen]

theorem keyRead_append_lt (key : List Word32) (v : Word32) (j : Nat) (h : j < key.length) :
    keyRead (key ++ [v]) j = keyRead key j := by
  simp only [keyRead, List.getD_eq_getElem?_getD, List.getElem?_append_left h]

@[simp] theorem keyRead_append_last (key : List Word32) (v : Word32) : keyRead (key ++ [v]) key.length = v := by
  simp [keyRead]

theorem keyFull_iff (s : State) : s.keyFull = true ↔ s.keylen = s.platform.kmax := by
  simp [State.keyFull]

/-! ## The canonical form of the key buffer is kept -/

theorem wf_iff (s : State) : Memory.wf s = true ↔ s.keylen ≤ s.platform.kmax := by
  simp [Memory.wf]

/-- An operation that writes neither the key nor the platform keeps the form. -/
theorem wf_of_same {s t : State} (hk : t.key = s.key) (hp : t.platform = s.platform) (h : Memory.wf s = true) :
    Memory.wf t = true := by
  rw [wf_iff, State.keylen] at *
  rw [hk, hp]
  exact h

theorem keyClear_wf (s : State) : Memory.wf s.keyClear = true := by simp [wf_iff]

theorem keyAppend_wf {s : State} (v : Word32) (h : Memory.wf s = true) (hf : s.keyFull = false) :
    Memory.wf (s.keyAppend v) = true := by
  have hne : s.keylen ≠ s.platform.kmax := by simpa [State.keyFull] using hf
  rw [wf_iff] at *
  simp only [keylen_keyAppend, State.keyAppend_platform]
  omega

theorem hardReset_wf (s : State) : Memory.wf s.hardReset = true := by
  simp [wf_iff, State.keylen]

/-! ## WL and EX -/

/-- `umod(r, L)` for `L > 0` (00_scope.md rule R7). -/
theorem umod_toNat (r : BitVec 31) {len : Nat} (_h : 0 < len) : (umod r len).toNat = r.toNat % len := by
  have h1 : r.toNat % len ≤ r.toNat := Nat.mod_le _ _
  have h2 := r.isLt
  simp only [umod, BitVec.toNat_ofNat]
  exact Nat.mod_eq_of_lt (by omega)

theorem umod_lt (r : BitVec 31) {len : Nat} (h : 0 < len) : (umod r len).toNat < len := by
  rw [umod_toNat r h]
  exact Nat.mod_lt _ h

/-- A word is read exactly below the list's length (20_memory.md rule R43). -/
theorem wlRead_isSome_iff (p : Platform) (i : BitVec 31) : (p.wlRead i).isSome = true ↔ i.toNat < p.len := by
  simp [Platform.wlRead, Platform.len]

/-- The index the block presents is in range (20_memory.md rule R43). -/
theorem wlRead_umod (p : Platform) (r : BitVec 31) (h : 0 < p.len) : ∃ w, p.wlRead (umod r p.len) = some w :=
  Option.isSome_iff_exists.mp ((wlRead_isSome_iff p _).mpr (umod_lt r h))

theorem wlRead_none_of_empty (p : Platform) (i : BitVec 31) (h : p.len = 0) : p.wlRead i = none := by
  have : p.wl = [] := List.eq_nil_of_length_eq_zero h
  simp [Platform.wlRead, this]

/-! ## The generator registers -/

theorem gen?_of_uninit {s : State} (h : s.cursor = .uninit) : s.gen? = none := by simp [State.gen?, h]

theorem gen?_of_index {s : State} {c : Fin 625} (h : s.cursor = .index c) : s.gen? = some ⟨s.mt, c⟩ := by
  simp [State.gen?, h]

theorem gen?_eq_none_iff (s : State) : s.gen? = none ↔ s.cursor = .uninit := by
  cases h : s.cursor <;> simp [State.gen?, h]

theorem gen?_eq_some_iff (s : State) (g : Gen) : s.gen? = some g ↔ s.mt = g.mt ∧ s.cursor = .index g.cursor := by
  obtain ⟨mt, c⟩ := g
  cases h : s.cursor <;> simp [State.gen?, h]

@[simp] theorem gen?_withGen (s : State) (g : Gen) : (s.withGen g).gen? = some g := rfl

theorem seeded_iff (s : State) : s.seeded = true ↔ s.cursor ≠ .uninit := by simp [State.seeded]

/-! ## ATT (10_state.md rule R16) -/

theorem attSucc_toNat (a : Word32) : (attSucc a).toNat = min (a.toNat + 1) (2 ^ 32 - 1) := by
  have : min (a.toNat + 1) (2 ^ 32 - 1) < 2 ^ 32 := by omega
  simp only [attSucc, BitVec.toNat_ofNat]
  exact Nat.mod_eq_of_lt this

end Sys2Proof.Machine
end

