-- ==== Sys2Proof/Laws/Generator.lean ====
section
/-! SUPPORT. The loops of integer seeding and of the twist, by their invariants: what is written after `k`
iterations and what is not.  `initSeq` is the fast form of integer seeding, equal to the loop as the rule writes it. -/

namespace Sys2Proof.Machine

open Sys2Proof

@[simp] theorem loopUp_zero {α : Type} (body : Nat → α → α) (a : α) : loopUp body 0 a = a := rfl

theorem loopUp_succ {α : Type} (body : Nat → α → α) (k : Nat) (a : α) :
    loopUp body (k + 1) a = body k (loopUp body k a) := rfl

/-! ## Integer seeding -/

/-- Element `i` of the state integer seeding makes of `s`. -/
def initSeq (s : Word32) : Nat → Word32
  | 0 => s
  | i + 1 => initWord (initSeq s i) (i + 1)

/-- After `k` iterations the elements up to `k` are those of the sequence. -/
theorem initLoop_read (s : Word32) (mt : Mt) (k : Nat) (hk : k ≤ 623) (i : Fin 624) (hi : i.val ≤ k) :
    mtRead (loopUp (fun n => initStep (n + 1)) k (mtWrite mt 0 s)) i = initSeq s i.val := by
  induction k generalizing i with
  | zero =>
    have : i = 0 := Fin.ext (by simpa using hi)
    subst this
    simp [initSeq]
  | succ k ih =>
    rw [loopUp_succ]
    simp only [initStep]
    have hk1 : (Fin.ofNat 624 (k + 1)).val = k + 1 := Nat.mod_eq_of_lt (by omega)
    have hk0 : (Fin.ofNat 624 (k + 1 - 1)).val = k := Nat.mod_eq_of_lt (by omega)
    rw [mtRead_mtWrite]
    split
    · next h =>
      rw [h, hk1, ih (by omega) _ (by omega), hk0]
      rfl
    · next h =>
      have : i.val ≠ k + 1 := fun e => h (Fin.ext (e.trans hk1.symm))
      exact ih (by omega) i (by omega)

/-- The loop of rule R80 computes the sequence, whatever the array held. -/
theorem initMt_read (s : Word32) (mt : Mt) (i : Fin 624) : mtRead (initMt s mt) i = initSeq s i.val :=
  initLoop_read s mt 623 (le_refl _) i (by omega)

/-- Integer seeding overwrites the whole array (R80). -/
theorem initMt_forgets (s : Word32) (mt mt' : Mt) : initMt s mt = initMt s mt' := by
  apply Vector.ext
  intro i hi
  have h := initMt_read s mt ⟨i, hi⟩
  rw [← initMt_read s mt' ⟨i, hi⟩] at h
  simpa [mtRead, Vector.get_eq_getElem] using h

@[simp] theorem initInt_mt (s : Word32) (mt : Mt) : (initInt s mt).mt = initMt s mt := by rw [initInt]

/-- Seeding leaves `CURSOR = 624` (R80, R85). -/
@[simp] theorem initInt_cursor (s : Word32) (mt : Mt) : (initInt s mt).cursor = 624 := by rw [initInt]

@[simp] theorem initArray_cursor (key : List Word32) (mt : Mt) : (initArray key mt).cursor = 624 := by rw [initArray]

theorem index_last_ne_zero : Cursor.index 624 ≠ Cursor.index 0 := by decide

/-! ## The twist -/

/-- Elements from `k` on are not yet written after `k` iterations. -/
theorem twistLoop_read_ge (mt : Mt) (k : Nat) (hk : k ≤ 624) (i : Fin 624) (hi : k ≤ i.val) :
    mtRead (loopUp twistStep k mt) i = mtRead mt i := by
  induction k with
  | zero => rfl
  | succ k ih =>
    rw [loopUp_succ]
    simp only [twistStep]
    have hk0 : (Fin.ofNat 624 k).val = k := Nat.mod_eq_of_lt (by omega)
    rw [mtRead_mtWrite_ne _ _ _ _ (fun e => by rw [e, hk0] at hi; omega)]
    exact ih (by omega) (by omega)

/-- Elements below `k` are final after `k` iterations. -/
theorem twistLoop_read_lt (mt : Mt) (k n : Nat) (hn : k ≤ n) (hn' : n ≤ 624) (i : Fin 624) (hi : i.val < k) :
    mtRead (loopUp twistStep n mt) i = mtRead (loopUp twistStep k mt) i := by
  induction n, hn using Nat.le_induction with
  | base => rfl
  | succ n hkn ih =>
    rw [loopUp_succ]
    simp only [twistStep]
    have hn0 : (Fin.ofNat 624 n).val = n := Nat.mod_eq_of_lt (by omega)
    rw [mtRead_mtWrite_ne _ _ _ _ (fun e => by rw [e, hn0] at hi; omega)]
    exact ih (by omega)

/-- What the twist writes at `i`, from the array as it stands at iteration `i`. -/
theorem twist_read (mt : Mt) (i : Fin 624) :
    mtRead (twist mt) i =
      twistWord (mtRead (loopUp twistStep i.val mt) i) (mtRead (loopUp twistStep i.val mt) (i + 1))
        (mtRead (loopUp twistStep i.val mt) (i + 397)) := by
  have hi := i.isLt
  have hof : Fin.ofNat 624 i.val = i := Fin.ext (Nat.mod_eq_of_lt hi)
  rw [twist, twistLoop_read_lt mt (i.val + 1) 624 (by omega) (le_refl _) i (by omega), loopUp_succ]
  simp only [twistStep, hof, mtRead_mtWrite_same]

/-! ## The output functions -/

theorem ready_of_lt (mt : Mt) (c : Fin 624) : (Gen.mk mt c.castSucc).ready = (mt, c) := by
  simp [Gen.ready]

theorem ready_of_last (mt : Mt) : (Gen.mk mt 624).ready = (twist mt, 0) := by
  simp [Gen.ready]

/-- `NextUint32` leaves the cursor in `[1, 624]` (10_state.md rule R12). -/
theorem nextUint32_cursor_ne_zero (g : Gen) : g.nextUint32.2.cursor ≠ 0 := by
  simp [Gen.nextUint32, Fin.succ_ne_zero]

/-- `NextUint31` moves the generator as `NextUint32` does (R104). -/
@[simp] theorem nextUint31_gen (g : Gen) : g.nextUint31.2 = g.nextUint32.2 := rfl

end Sys2Proof.Machine
end

