-- ==== Sys2Proof/Laws/PerInstr.lean ====
section
/-! SUPPORT. Facts about every command as syntax, one lemma per constructor.
Family EncodedFields: the two fields of a command's encoding are its opcode and its `imm` field
(30_encoding.md rule R60), and they pass the checks of rule R64. -/

namespace Sys2Proof.Laws.EncodedFields

open Sys2Proof

/-- The fields read back from the encoding of `i` are those it was made of, and are well formed. -/
def Statement (i : Instr) : Prop := fields (encode i) = ⟨opcode i, immField i⟩ ∧ (fields (encode i)).wf = true

/-- The two fields of a concatenation `{op, imm}` (rule R60). -/
theorem fields_append (op : BitVec 8) (imm : Word32) : fields (op ++ imm) = ⟨op, imm⟩ := by
  have hop : (op ++ imm).extractLsb' 32 8 = op := by
    ext k hk
    rw [BitVec.getElem_extractLsb']
    exact BitVec.getLsbD_append.trans (by simp [hk])
  have himm : (op ++ imm).extractLsb' 0 32 = imm := by
    ext k hk
    rw [BitVec.getElem_extractLsb']
    exact BitVec.getLsbD_append.trans (by simp [hk])
  simp only [fields]
  rw [hop, himm]

/-- A format-I encoding of an assigned opcode is well formed. -/
theorem wf_of_formatI (op : BitVec 8) (imm : Word32) (h : opFormat op = some .i) : (Fields.mk op imm).wf = true := by
  simp [Fields.wf, Fields.opAssigned, Fields.immAllowed, h]

/-- A format-O encoding of an assigned opcode is well formed. -/
theorem wf_of_formatO (op : BitVec 8) (h : opFormat op = some .o) : (Fields.mk op 0#32).wf = true := by
  simp [Fields.wf, Fields.opAssigned, Fields.immAllowed, h]

theorem seedi (imm : Word32) : Statement (.seedi imm) :=
  ⟨fields_append _ _, by rw [encode, fields_append]; exact wf_of_formatI _ _ rfl⟩

theorem keyclr : Statement .keyclr :=
  ⟨fields_append _ _, by rw [encode, fields_append]; exact wf_of_formatO _ rfl⟩

theorem keypush (imm : Word32) : Statement (.keypush imm) :=
  ⟨fields_append _ _, by rw [encode, fields_append]; exact wf_of_formatI _ _ rfl⟩

theorem seeda : Statement .seeda :=
  ⟨fields_append _ _, by rw [encode, fields_append]; exact wf_of_formatO _ rfl⟩

theorem next32 : Statement .next32 :=
  ⟨fields_append _ _, by rw [encode, fields_append]; exact wf_of_formatO _ rfl⟩

theorem next31 : Statement .next31 :=
  ⟨fields_append _ _, by rw [encode, fields_append]; exact wf_of_formatO _ rfl⟩

theorem setcap (imm : Word32) : Statement (.setcap imm) :=
  ⟨fields_append _ _, by rw [encode, fields_append]; exact wf_of_formatI _ _ rfl⟩

theorem draw : Statement .draw :=
  ⟨fields_append _ _, by rw [encode, fields_append]; exact wf_of_formatO _ rfl⟩

end Sys2Proof.Laws.EncodedFields
end

