-- ==== Sys2Proof/Laws/Steps.lean ====
section
/-! SUPPORT. What each meaning, each micro-step and a step of the machine can answer, said once, so that no later
proof unfolds them. -/

namespace Sys2Proof.Machine

open Sys2Proof

/-! ## The meanings -/

theorem execKeypush_full {s : State} (imm : Word32) (h : s.keyFull = true) :
    execKeypush imm s = .next (s.raise .invalidSeed (encode (.keypush imm))) := by
  simp [execKeypush, h]

theorem execKeypush_append {s : State} (imm : Word32) (h : s.keyFull = false) :
    execKeypush imm s = .next (s.keyAppend imm) := by
  simp [execKeypush, h]

theorem execSeeda_empty {s : State} (h : s.keylen = 0) :
    execSeeda s = .next (s.raise .invalidSeed (encode .seeda)) := by
  simp [execSeeda, h]

theorem execSeeda_key {s : State} (h : s.keylen ≠ 0) : execSeeda s = .next (s.withGen (initArray s.key s.mt)) := by
  simp [execSeeda, h]

theorem execNext32_unseeded {s : State} (h : s.gen? = none) :
    execNext32 s = .next (s.raise .notSeeded (encode .next32)) := by
  simp [execNext32, h]

theorem execNext32_seeded {s : State} {g : Gen} (h : s.gen? = some g) :
    execNext32 s = .next ((s.withGen g.nextUint32.2).withRes g.nextUint32.1) := by
  simp [execNext32, h]

theorem execNext31_unseeded {s : State} (h : s.gen? = none) :
    execNext31 s = .next (s.raise .notSeeded (encode .next31)) := by
  simp [execNext31, h]

theorem execNext31_seeded {s : State} {g : Gen} (h : s.gen? = some g) :
    execNext31 s = .next ((s.withGen g.nextUint31.2).withRes (g.nextUint31.1.setWidth 32)) := by
  simp [execNext31, h]

theorem execDraw_unseeded {s : State} (h : s.gen? = none) :
    execDraw s = .next (s.raise .notSeeded (encode .draw)) := by
  simp [execDraw, h]

theorem execDraw_empty {s : State} {g : Gen} (h : s.gen? = some g) (hl : s.platform.len = 0) :
    execDraw s = .next (s.raise .emptyWordList (encode .draw)) := by
  simp [execDraw, h, hl]

theorem execDraw_begins {s : State} {g : Gen} (h : s.gen? = some g) (hl : s.platform.len ≠ 0) :
    execDraw s = .next s.beginDraw := by
  simp [execDraw, h, hl]

/-- What a command can answer, case by case: the state after it, with what it was accepted on.  The generator that
seeding makes stands behind a variable, so that no unification runs the loops. -/
inductive ExecCase (s : State) : Instr → State → Prop where
  | seedi (imm : Word32) (g : Gen) (hg : g = initInt imm s.mt) : ExecCase s (.seedi imm) (s.withGen g)
  | keyclr : ExecCase s .keyclr s.keyClear
  | keypushFull (imm : Word32) (h : s.keyFull = true) :
    ExecCase s (.keypush imm) (s.raise .invalidSeed (encode (.keypush imm)))
  | keypush (imm : Word32) (h : s.keyFull = false) : ExecCase s (.keypush imm) (s.keyAppend imm)
  | seedaEmpty (h : s.keylen = 0) : ExecCase s .seeda (s.raise .invalidSeed (encode .seeda))
  | seeda (h : s.keylen ≠ 0) (g : Gen) (hg : g = initArray s.key s.mt) : ExecCase s .seeda (s.withGen g)
  | next32Unseeded (h : s.gen? = none) : ExecCase s .next32 (s.raise .notSeeded (encode .next32))
  | next32 (g : Gen) (h : s.gen? = some g) :
    ExecCase s .next32 ((s.withGen g.nextUint32.2).withRes g.nextUint32.1)
  | next31Unseeded (h : s.gen? = none) : ExecCase s .next31 (s.raise .notSeeded (encode .next31))
  | next31 (g : Gen) (h : s.gen? = some g) :
    ExecCase s .next31 ((s.withGen g.nextUint31.2).withRes (g.nextUint31.1.setWidth 32))
  | setcap (imm : Word32) : ExecCase s (.setcap imm) (s.withCap imm)
  | drawUnseeded (h : s.gen? = none) : ExecCase s .draw (s.raise .notSeeded (encode .draw))
  | drawEmpty (g : Gen) (h : s.gen? = some g) (hl : s.platform.len = 0) :
    ExecCase s .draw (s.raise .emptyWordList (encode .draw))
  | draw (g : Gen) (h : s.gen? = some g) (hl : s.platform.len ≠ 0) : ExecCase s .draw s.beginDraw

theorem exec_seedi (imm : Word32) (s : State) : exec (.seedi imm) s = .next (s.withGen (initInt imm s.mt)) := by
  rw [exec, execSeedi]

/-- Every answer of `exec` is one of the cases. -/
theorem exec_cases {i : Instr} {s t : State} (h : exec i s = .next t) : ExecCase s i t := by
  cases i with
  | seedi imm =>
    rw [exec_seedi] at h
    injection h with h
    exact h ▸ .seedi imm _ rfl
  | keyclr =>
    injection h with h
    exact h ▸ .keyclr
  | keypush imm =>
    cases hf : s.keyFull with
    | true =>
      rw [exec, execKeypush_full imm hf] at h
      injection h with h
      exact h ▸ .keypushFull imm hf
    | false =>
      rw [exec, execKeypush_append imm hf] at h
      injection h with h
      exact h ▸ .keypush imm hf
  | seeda =>
    by_cases hk : s.keylen = 0
    · rw [exec, execSeeda_empty hk] at h
      injection h with h
      exact h ▸ .seedaEmpty hk
    · rw [exec, execSeeda_key hk] at h
      injection h with h
      exact h ▸ .seeda hk _ rfl
  | next32 =>
    cases hg : s.gen? with
    | none =>
      rw [exec, execNext32_unseeded hg] at h
      injection h with h
      exact h ▸ .next32Unseeded hg
    | some g =>
      rw [exec, execNext32_seeded hg] at h
      injection h with h
      exact h ▸ .next32 g hg
  | next31 =>
    cases hg : s.gen? with
    | none =>
      rw [exec, execNext31_unseeded hg] at h
      injection h with h
      exact h ▸ .next31Unseeded hg
    | some g =>
      rw [exec, execNext31_seeded hg] at h
      injection h with h
      exact h ▸ .next31 g hg
  | setcap imm =>
    injection h with h
    exact h ▸ .setcap imm
  | draw =>
    cases hg : s.gen? with
    | none =>
      rw [exec, execDraw_unseeded hg] at h
      injection h with h
      exact h ▸ .drawUnseeded hg
    | some g =>
      by_cases hl : s.platform.len = 0
      · rw [exec, execDraw_empty hg hl] at h
        injection h with h
        exact h ▸ .drawEmpty g hg hl
      · rw [exec, execDraw_begins hg hl] at h
        injection h with h
        exact h ▸ .draw g hg hl

/-! ## The micro-steps -/

theorem warmStep_last {s : State} {g : Gen} (h : s.gen? = some g) (hs : s.slot = 3) :
    warmStep s = .next ((s.withGen g.nextUint31.2).sequence .fill 0) := by
  simp [warmStep, h, hs]

theorem warmStep_next {s : State} {g : Gen} (h : s.gen? = some g) (hs : s.slot ≠ 3) :
    warmStep s = .next ((s.withGen g.nextUint31.2).sequence .warm (s.slot + 1)) := by
  simp [warmStep, h, hs]

theorem fillStep_last {s : State} {g : Gen} {w : Word} (h : s.gen? = some g)
    (hw : s.platform.wlRead (umod g.nextUint31.1 s.platform.len) = some w) (hs : s.slot = 3) :
    fillStep s = .next ((((s.withGen g.nextUint31.2).latch (umod g.nextUint31.1 s.platform.len) w).countAttempt).sequence
      .check s.slot) := by
  simp [fillStep, h, hw, hs]

theorem fillStep_next {s : State} {g : Gen} {w : Word} (h : s.gen? = some g)
    (hw : s.platform.wlRead (umod g.nextUint31.1 s.platform.len) = some w) (hs : s.slot ≠ 3) :
    fillStep s = .next (((s.withGen g.nextUint31.2).latch (umod g.nextUint31.1 s.platform.len) w).sequence
      .fill (s.slot + 1)) := by
  simp [fillStep, h, hw, hs]

theorem checkStep_accept {s : State} (h : s.accepted = true) : checkStep s = .next s.finishDraw := by
  simp [checkStep, h]

theorem checkStep_exhausted {s : State} (h : s.accepted = false) (hc : s.cap ≠ 0#32) (ha : s.cap ≤ s.att) :
    checkStep s = .next (s.raise .drawExhausted (encode .draw)) := by
  simp [checkStep, h, hc, ha]

theorem checkStep_redraw {s : State} (h : s.accepted = false) (hc : ¬(s.cap ≠ 0#32 ∧ s.cap ≤ s.att)) :
    checkStep s = .next (s.sequence .fill 0) := by
  rw [checkStep, if_neg (by simp [h]), if_neg hc]

/-! ## The step -/

theorem step_of_reset {s : State} (h : s.resetIn = true) : step s = .next s.hardReset := by
  simp [step, blockStep, h]

theorem step_of_idle_none {s : State} (hr : s.resetIn = false) (hp : s.phase = .idle) (hq : s.pending = []) :
    step s = .next s := by
  simp [step, blockStep, engineStep, idleStep, hr, hp, hq]

theorem step_of_idle_some {s : State} {w : Cmd} {rest : List Cmd} (hr : s.resetIn = false) (hp : s.phase = .idle)
    (hq : s.pending = w :: rest) : step s = acceptCommand w (s.withPending rest) := by
  simp [step, blockStep, engineStep, idleStep, hr, hp, hq]

theorem step_of_warm {s : State} (hr : s.resetIn = false) (hp : s.phase = .warm) : step s = warmStep s := by
  simp [step, blockStep, engineStep, hr, hp]

theorem step_of_fill {s : State} (hr : s.resetIn = false) (hp : s.phase = .fill) : step s = fillStep s := by
  simp [step, blockStep, engineStep, hr, hp]

theorem step_of_check {s : State} (hr : s.resetIn = false) (hp : s.phase = .check) : step s = checkStep s := by
  simp [step, blockStep, engineStep, hr, hp]

theorem step_of_halt {s : State} (hr : s.resetIn = false) (hp : s.phase = .halt) : step s = .next s := by
  simp [step, blockStep, engineStep, hr, hp]

theorem acceptCommand_ok {w : Cmd} {i : Instr} (h : decode w = .ok i) (s : State) : acceptCommand w s = exec i s := by
  simp [acceptCommand, h]

theorem acceptCommand_illegal {w : Cmd} {e : Illegal} (h : decode w = .error e) (s : State) :
    acceptCommand w s = .next (s.raise .illegalCommand w) := by
  simp [acceptCommand, h]

/-- Everything the acceptance of a word can do. -/
theorem acceptCommand_cases (w : Cmd) (s : State) :
    (∃ i, decode w = .ok i ∧ acceptCommand w s = exec i s) ∨
      (∃ e, decode w = .error e ∧ acceptCommand w s = .next (s.raise .illegalCommand w)) := by
  cases h : decode w with
  | ok i => exact .inl ⟨i, rfl, acceptCommand_ok h s⟩
  | error e => exact .inr ⟨e, rfl, acceptCommand_illegal h s⟩

/-- What a step can answer, case by case. -/
inductive StepCase (s : State) : State → Prop where
  | reset (hr : s.resetIn = true) : StepCase s s.hardReset
  | idle (hr : s.resetIn = false) (hp : s.phase = .idle) (hq : s.pending = []) : StepCase s s
  | illegal (hr : s.resetIn = false) (hp : s.phase = .idle) (w : Cmd) (rest : List Cmd) (hq : s.pending = w :: rest)
    (e : Illegal) (hd : decode w = .error e) : StepCase s ((s.withPending rest).raise .illegalCommand w)
  | command (hr : s.resetIn = false) (hp : s.phase = .idle) (w : Cmd) (rest : List Cmd) (hq : s.pending = w :: rest)
    (i : Instr) (hd : decode w = .ok i) (t : State) (hx : ExecCase (s.withPending rest) i t) : StepCase s t
  | warmLast (hr : s.resetIn = false) (hp : s.phase = .warm) (g : Gen) (hg : s.gen? = some g) (hs : s.slot = 3) :
    StepCase s ((s.withGen g.nextUint31.2).sequence .fill 0)
  | warm (hr : s.resetIn = false) (hp : s.phase = .warm) (g : Gen) (hg : s.gen? = some g) (hs : s.slot ≠ 3) :
    StepCase s ((s.withGen g.nextUint31.2).sequence .warm (s.slot + 1))
  | fillLast (hr : s.resetIn = false) (hp : s.phase = .fill) (g : Gen) (hg : s.gen? = some g) (w : Word)
    (hw : s.platform.wlRead (umod g.nextUint31.1 s.platform.len) = some w) (hs : s.slot = 3) :
    StepCase s ((((s.withGen g.nextUint31.2).latch (umod g.nextUint31.1 s.platform.len) w).countAttempt).sequence
      .check s.slot)
  | fill (hr : s.resetIn = false) (hp : s.phase = .fill) (g : Gen) (hg : s.gen? = some g) (w : Word)
    (hw : s.platform.wlRead (umod g.nextUint31.1 s.platform.len) = some w) (hs : s.slot ≠ 3) :
    StepCase s (((s.withGen g.nextUint31.2).latch (umod g.nextUint31.1 s.platform.len) w).sequence
      .fill (s.slot + 1))
  | accept (hr : s.resetIn = false) (hp : s.phase = .check) (ha : s.accepted = true) : StepCase s s.finishDraw
  | exhausted (hr : s.resetIn = false) (hp : s.phase = .check) (ha : s.accepted = false) (hc : s.cap ≠ 0#32)
    (hn : s.cap ≤ s.att) : StepCase s (s.raise .drawExhausted (encode .draw))
  | redraw (hr : s.resetIn = false) (hp : s.phase = .check) (ha : s.accepted = false)
    (hc : ¬(s.cap ≠ 0#32 ∧ s.cap ≤ s.att)) : StepCase s (s.sequence .fill 0)
  | halt (hr : s.resetIn = false) (hp : s.phase = .halt) : StepCase s s

/-- Every answer of a step is one of the cases. -/
theorem step_cases {s t : State} (h : step s = .next t) : StepCase s t := by
  cases hr : s.resetIn with
  | true =>
    rw [step_of_reset hr] at h
    injection h with h
    exact h ▸ .reset hr
  | false =>
    cases hp : s.phase with
    | idle =>
      cases hq : s.pending with
      | nil =>
        rw [step_of_idle_none hr hp hq] at h
        injection h with h
        exact h ▸ .idle hr hp hq
      | cons w rest =>
        rw [step_of_idle_some hr hp hq] at h
        rcases acceptCommand_cases w (s.withPending rest) with ⟨i, hd, hx⟩ | ⟨e, hd, hx⟩
        · rw [hx] at h
          exact .command hr hp w rest hq i hd t (exec_cases h)
        · rw [hx] at h
          injection h with h
          exact h ▸ .illegal hr hp w rest hq e hd
    | warm =>
      rw [step_of_warm hr hp] at h
      cases hg : s.gen? with
      | none => simp [warmStep, hg] at h
      | some g =>
        by_cases hs : s.slot = 3
        · rw [warmStep_last hg hs] at h
          injection h with h
          exact h ▸ .warmLast hr hp g hg hs
        · rw [warmStep_next hg hs] at h
          injection h with h
          exact h ▸ .warm hr hp g hg hs
    | fill =>
      rw [step_of_fill hr hp] at h
      cases hg : s.gen? with
      | none => simp [fillStep, hg] at h
      | some g =>
        cases hw : s.platform.wlRead (umod g.nextUint31.1 s.platform.len) with
        | none => simp [fillStep, hg, hw] at h
        | some w =>
          by_cases hs : s.slot = 3
          · rw [fillStep_last hg hw hs] at h
            injection h with h
            exact h ▸ .fillLast hr hp g hg w hw hs
          · rw [fillStep_next hg hw hs] at h
            injection h with h
            exact h ▸ .fill hr hp g hg w hw hs
    | check =>
      rw [step_of_check hr hp] at h
      cases ha : s.accepted with
      | true =>
        rw [checkStep_accept ha] at h
        injection h with h
        exact h ▸ .accept hr hp ha
      | false =>
        by_cases hc : s.cap ≠ 0#32 ∧ s.cap ≤ s.att
        · rw [checkStep_exhausted ha hc.1 hc.2] at h
          injection h with h
          exact h ▸ .exhausted hr hp ha hc.1 hc.2
        · rw [checkStep_redraw ha hc] at h
          injection h with h
          exact h ▸ .redraw hr hp ha hc
    | halt =>
      rw [step_of_halt hr hp] at h
      injection h with h
      exact h ▸ .halt hr hp

end Sys2Proof.Machine
end

