-- ==== Sys2Proof/Tests/Slice0.lean ====
section
/-! SUPPORT. Tests of the model against 95_test_vectors.md and hand calculation from the rules, the smoke tests of the
well-formedness checks, and for each statement with hypotheses a concrete state and operands that meet them. -/

namespace Sys2Proof.Tests

open Sys2Proof Sys2Proof.Machine

/-! ## Small states -/

/-- `apple`, `mango`, `grape`, `peach` (95_test_vectors.md, notation). -/
def fourWords : List Word := [0x6170706C65#40, 0x6D616E676F#40, 0x6772617065#40, 0x7065616368#40]

/-- Four different words, none excluded, a key buffer of two elements. -/
def wide : Platform := ⟨fourWords, [], 2⟩

/-- One word, so that no candidate is ever accepted. -/
def narrow : Platform := ⟨[0x6170706C65#40], [], 2⟩

/-- An idle, unseeded block to which the host hands `ws`. -/
def idleWith (p : Platform) (ws : List Cmd) : State := { State.reset with platform := p, pending := ws }

/-- Words 9, 10, 11 of the array are 2, 4, 6; the others are 0.  Their tempered words shifted right by one are 1, 2, 3
modulo 4, by hand: `Temper(2) = 2` (V23c), `Temper(4) = 0x01020204 ^ 0x40`. -/
def fewWords : Mt :=
  mtWrite (mtWrite (mtWrite (Vector.replicate 624 0#32) 9 2#32) 10 4#32) 11 6#32

/-- The same block with that array at `CURSOR = 4`: the warm-up takes words 4 to 7, attempt 1 words 8 to 11. -/
def seededWith (p : Platform) (ws : List Cmd) : State :=
  { idleWith p ws with mt := fewWords, cursor := .index 4 }

/-- A running draw on the one-word list that judges its first candidate. -/
def judging (cap : Word32) : State :=
  { seededWith narrow [0x1000000000#40] with
    cursor := .index 12, cap := cap, att := 1#32, slot := 3, phase := .check, qw := Vector.replicate 4 0x6170706C65#40 }

/-- A running draw on four words whose first candidate is the four words. -/
def accepting : State :=
  { seededWith wide [] with
    cursor := .index 12, att := 1#32, slot := 3, phase := .check, idx := #v[0#31, 1#31, 2#31, 3#31]
    qw := #v[0x6170706C65#40, 0x6D616E676F#40, 0x6772617065#40, 0x7065616368#40] }

/-- The state that candidate is accepted in, idle, with the quartet shown. -/
def shown (ws : List Cmd) : State := { accepting with qvalid := true, phase := .idle, pending := ws }

/-- A block halted by `0x0000000000` (V40). -/
def stopped : State := { idleWith wide [0x1000000000#40] with fault := .illegalCommand, fcmd := 0#40, phase := .halt }

/-- The step answers a next state with the property. -/
def stepsTo (s : State) (P : State → Bool) : Bool :=
  match step s with
  | .next t => P t
  | .fault _ => false
  | .refused _ => false

/-- `n` steps answer a next state with the property. -/
def runsTo (n : Nat) (s : State) (P : State → Bool) : Bool :=
  match run n s with
  | .next t => P t
  | .fault _ => false
  | .refused _ => false

/-! ## Decoding: words written out bit by bit from 30_encoding.md section 1 (`op` in bits 39:32, `imm` in bits 31:0) -/

theorem test_decode_seedi :
    decode (0b00000001#8 ++ 0b11111111111111111111111111111101#32) = .ok (.seedi 0xFFFFFFFD#32) := by decide

theorem test_decode_keyclr : decode (0b00000010#8 ++ 0b00000000000000000000000000000000#32) = .ok .keyclr := by decide

theorem test_decode_keypush :
    decode (0b00000011#8 ++ 0b00000000000000000000000100100011#32) = .ok (.keypush 0x123#32) := by decide

theorem test_decode_seeda : decode (0b00000100#8 ++ 0b00000000000000000000000000000000#32) = .ok .seeda := by decide

theorem test_decode_next32 : decode (0b00010000#8 ++ 0b00000000000000000000000000000000#32) = .ok .next32 := by decide

theorem test_decode_next31 : decode (0b00010001#8 ++ 0b00000000000000000000000000000000#32) = .ok .next31 := by decide

theorem test_decode_setcap :
    decode (0b00100000#8 ++ 0b10000000000000000000000000000001#32) = .ok (.setcap 0x80000001#32) := by decide

theorem test_decode_draw : decode (0b00100001#8 ++ 0b00000000000000000000000000000000#32) = .ok .draw := by decide

/-- V40 to V44. -/
theorem test_illegal_words :
    decode 0x0000000000#40 = .error (.unassignedOp 0x00#8) ∧
    decode 0x1000000001#40 = .error (.nonzeroImm 0x10#8 1#32) ∧
    decode 0x21FFFFFFFF#40 = .error (.nonzeroImm 0x21#8 0xFFFFFFFF#32) ∧
    decode 0x0500000000#40 = .error (.unassignedOp 0x05#8) ∧
    decode 0x1200000000#40 = .error (.unassignedOp 0x12#8) ∧
    decode 0x2200000000#40 = .error (.unassignedOp 0x22#8) ∧
    decode 0xFF00000000#40 = .error (.unassignedOp 0xFF#8) ∧
    decode 0x0200000001#40 = .error (.nonzeroImm 0x02#8 1#32) ∧
    decode 0x0400000001#40 = .error (.nonzeroImm 0x04#8 1#32) ∧
    decode 0x1100000001#40 = .error (.nonzeroImm 0x11#8 1#32) := by decide

/-- The opcode table's numbering: the word itself, and no word of more than its bits. -/
theorem test_table_word :
    decodeTableWord 40 0x2000000003 = some (.setcap 3#32) ∧ decodeTableWord 40 0x0000000000 = none ∧
      decodeTableWord 40 (2 ^ 40 + 0x0200000000) = none := by decide

/-! ## Well-formedness: an ill-formed term for each check -/

/-- First check of R64: the opcode is assigned. -/
theorem test_wf_refuses_unassigned_op :
    (Fields.mk 0x05#8 0#32).opAssigned = false ∧ (Fields.mk 0x05#8 0#32).wf = false := by decide

/-- Second check of R64: format O has `imm = 0`. -/
theorem test_wf_refuses_nonzero_imm :
    (Fields.mk 0x10#8 1#32).immAllowed = false ∧ (Fields.mk 0x10#8 1#32).wf = false ∧
      (Fields.mk 0x20#8 1#32).wf = true := by decide

/-- R67: an operand is below 2^32. -/
theorem test_wf_refuses_wide_operand :
    operandInRange (2 ^ 32) = false ∧ AsmLine.wf (.seedi (2 ^ 32)) = false ∧ AsmLine.wf (.keypush (2 ^ 32)) = false ∧
      AsmLine.wf (.setcap (2 ^ 32)) = false ∧ AsmLine.wf (.setcap (2 ^ 32 - 1)) = true := by decide

/-- R68: a `SEEDARR` has an element. -/
theorem test_wf_refuses_empty_seedarr :
    AsmLine.wf (.seedarr []) = false ∧ AsmLine.wf (.seedarr [0]) = true := by decide

/-! ## The assembler -/

/-- P4 of 95_test_vectors.md, with a comment and a hexadecimal operand, and V13's `SEEDD -1`. -/
theorem test_assemble_text :
    assembleText "SETCAP 0x3 ; the cap\nSEEDD -1\n\nDRAW".toList =
      some [0x2000000003#40, 0x01FFFFFFFF#40, 0x2100000000#40] := by decide +kernel

/-- Commands 0 to 5 of P3. -/
theorem test_assemble_seedarr :
    assembleText "SEEDARR [0x123, 0x234]".toList =
      some [0x0200000000#40, 0x0300000123#40, 0x0300000234#40, 0x0400000000#40] ∧
    assembleText "SEEDARR []".toList = none := by decide +kernel

/-- V18: `SEEDD 4294967301` is `SEEDI 5`. -/
theorem test_assemble_seedd_reduces : assembleLine (.seedd 4294967301) = some [.seedi 5#32] := by decide

/-! ## Arithmetic (V8) -/

theorem test_primitives :
    add32 0xFFFFFFFF#32 1#32 = 0#32 ∧ sub32 0#32 1#32 = 0xFFFFFFFF#32 ∧
    mul32 1812433253#32 1812433254#32 = 0x714ACB3E#32 ∧ mul32 0xFFFFFFFF#32 0xFFFFFFFF#32 = 1#32 ∧
    shl32 0xFFFFFFFF#32 7 = 0xFFFFFF80#32 ∧ shl32 0x00010000#32 15 = 0x80000000#32 ∧
    shr32 0x80000000#32 30 = 2#32 ∧ shr32 0xFFFFFFFF#32 1 = 0x7FFFFFFF#32 := by decide

theorem test_umod :
    umod 1294424481#31 6 = 3#31 ∧ umod 2147483647#31 1 = 0#31 ∧ umod 5#31 2147483648 = 5#31 := by decide

/-! ## Seeding -/

/-- V10 and V13: the first words of `SEEDI 0` and `SEEDI 0xFFFFFFFF`, by the recurrence the loop equals. -/
theorem test_seedi_words (mt : Mt) :
    mtRead (initMt 0#32 mt) 2 = 0x6C078967#32 ∧ mtRead (initMt 0#32 mt) 3 = 0x714ACB41#32 ∧
    mtRead (initMt 0xFFFFFFFF#32 mt) 1 = 0x4FE1DA6D#32 ∧ mtRead (initMt 0xFFFFFFFF#32 mt) 3 = 0xC1331AF4#32 := by
  simp only [initMt_read]
  decide +kernel

/-- V10: `SEEDI 0` reaches word 623 and leaves `CURSOR = 624`. -/
theorem test_seedi_last (mt : Mt) :
    mtRead (initInt 0#32 mt).mt 623 = 0x6B1A1930#32 ∧ (initInt 0#32 mt).cursor = 624 := by
  simp only [initInt_mt, initInt_cursor, initMt_read]
  decide +kernel

/-- V37: `KEYPUSH 0x234` after `KEYPUSH 0x123`, and V36: the push after the last. -/
theorem test_keypush :
    stepsTo { idleWith wide [0x0300000234#40] with key := [0x123#32] } (fun t => t.key == [0x123#32, 0x234#32]) = true ∧
    stepsTo { idleWith wide [0x0300000005#40] with key := [1#32, 2#32] } (fun t =>
      t.fault == .invalidSeed && t.fcmd == 0x0300000005#40 && t.keylen == 2 && t.status == 0x0310#16) = true := by
  decide +kernel

/-- V37: `KEYCLR` leaves `KEYLEN = 0`. -/
theorem test_keyclr :
    stepsTo { idleWith wide [0x0200000000#40] with key := [1#32, 2#32] } (fun t => t.keylen == 0 && t.pending == [])
      = true := by
  decide +kernel

/-- V36: `SEEDA` from reset. -/
theorem test_seeda_empty :
    stepsTo (idleWith wide [0x0400000000#40]) (fun t =>
      t.fault == .invalidSeed && t.fcmd == 0x0400000000#40 && t.status == 0x0310#16 && t.cursor == .uninit) = true := by
  decide +kernel

/-- V30, first iteration of the first pass, by hand in the vector. -/
theorem test_seeda_first_word :
    firstPassWord 0x012BD6AA#32 0x82D2AB13#32 0#32 0 = 0xFF8909B1#32 := by decide

/-! ## The twist, tempering, outputs -/

/-- V20 (`n = 0` and `n = 1`) and V21 (`n = 227`, from the new `MT[0]`). -/
theorem test_twist_words :
    twistWord 0#32 1#32 0x08A9BDCD#32 = 0x91A10D12#32 ∧ twistWord 1#32 0x6C078967#32 0xEE25986F#32 = 0x412EEC03#32 ∧
    twistWord 0x3692A1CB#32 0x10FC78FB#32 0x91A10D12#32 = 0x00D781B0#32 := by decide

/-- V23. -/
theorem test_temper :
    temper 1#32 = 0x00400091#32 ∧ temper 2#32 = 2#32 ∧ temper 0xFFFFFFFF#32 = 0x6FE01BF8#32 ∧
    temper 0x80000000#32 = 0x88102204#32 ∧ temper 0x12345678#32 = 0x2B7E4A2D#32 ∧
    temper 0xDEADBEEF#32 = 0xE016575D#32 ∧ temper 0x91A10D12#32 = 0x8C7F0AAC#32 := by decide

/-- V1, V20, V23h: word 0 of the twisted array is `0x91A10D12`, so `NEXT32` gives `2357136044`. -/
theorem test_next32 :
    stepsTo { seededWith wide [0x1000000000#40] with
      mt := mtWrite fewWords 623 0x91A10D12#32, cursor := .index 623 } (fun t =>
        t.res == 2357136044#32 && t.resv && t.cursor == .index 624 && t.status == 0x0006#16) = true := by
  decide +kernel

/-- V22: `NEXT31` shifts right, it does not mask. -/
theorem test_next31 :
    stepsTo { seededWith wide [0x1100000000#40] with
      mt := mtWrite fewWords 4 0x91A10D12#32 } (fun t =>
        t.res == 1178568022#32 && t.resv && t.cursor == .index 5) = true := by
  decide +kernel

/-- V28: before seeding, `NEXT32`, `NEXT31` and `DRAW` raise `NotSeeded`. -/
theorem test_not_seeded :
    stepsTo (idleWith wide [0x1000000000#40]) (fun t => t.status == 0x0210#16 && t.fcmd == 0x1000000000#40) = true ∧
    stepsTo (idleWith wide [0x1100000000#40]) (fun t => t.status == 0x0210#16 && t.fcmd == 0x1100000000#40) = true ∧
    stepsTo (idleWith wide [0x2100000000#40]) (fun t => t.status == 0x0210#16 && t.fcmd == 0x2100000000#40) = true := by
  decide +kernel

/-! ## The draw -/

/-- R120 and S8: the cap is written before seeding too. -/
theorem test_setcap :
    stepsTo (idleWith wide [0x2000000003#40]) (fun t => t.cap == 3#32 && t.status == 0x0000#16) = true := by
  decide +kernel

/-- S14: the acceptance step of `DRAW`. -/
theorem test_draw_begins :
    stepsTo { shown [0x2100000000#40] with att := 7#32 } (fun t =>
      t.phase == .warm && t.slot == 0 && t.att == 0#32 && t.cursor == .index 12 && t.status == 0x0003#16) = true := by
  decide +kernel

/-- S10: an empty word list, and `NotSeeded` before it. -/
theorem test_draw_empty :
    stepsTo (seededWith ⟨[], [], 1⟩ [0x2100000000#40]) (fun t => t.status == 0x0412#16 && t.cursor == .index 4) = true ∧
    stepsTo (idleWith ⟨[], [], 1⟩ [0x2100000000#40]) (fun t => t.status == 0x0210#16) = true := by
  decide +kernel

/-- S14: the last WARM step leads to FILL, the last FILL step counts the attempt and leads to CHECK. -/
theorem test_micro_steps :
    stepsTo { seededWith wide [] with phase := .warm, slot := 3, cursor := .index 3 } (fun t =>
      t.phase == .fill && t.slot == 0 && t.cursor == .index 4 && t.att == 0#32) = true ∧
    stepsTo { seededWith wide [] with phase := .fill, slot := 3, cursor := .index 11 } (fun t =>
      t.phase == .check && t.slot == 3 && t.cursor == .index 12 && t.att == 1#32 && t.idx.get 3 == 3#31 &&
        t.qw.get 3 == 0x7065616368#40) = true := by
  decide +kernel

/-- P4: the last permitted attempt is rejected, and S8: acceptance is tested before the cap. -/
theorem test_check :
    stepsTo (judging 1#32) (fun t => t.status == 0x0512#16 && t.fcmd == 0x2100000000#40 && t.att == 1#32) = true ∧
    stepsTo { accepting with cap := 1#32 } (fun t => t.status == 0x000A#16 && t.att == 1#32 && t.slot == 3) = true := by
  decide +kernel

/-- R64 and R157: V40 and V47 from reset. -/
theorem test_illegal_faults :
    stepsTo (idleWith wide [0#40]) (fun t => t.status == 0x0110#16) = true ∧
    stepsTo (idleWith wide [0x1000000001#40]) (fun t => t.status == 0x0110#16 && t.fcmd == 0x1000000001#40) = true := by
  decide +kernel

/-- R125 and S4: words are compared, not indices. -/
theorem test_accept_compares_words :
    acceptWords wide 0x6170706C65#40 0x6D616E676F#40 0x6170706C65#40 0x7065616368#40 = false ∧
    acceptWords { wide with ex := [0x6772617065#40] } 0x7065616368#40 0x6170706C65#40 0x6D616E676F#40 0x6772617065#40
      = false := by decide

/-- Each row of the opcode table runs as the first instruction after reset. -/
theorem test_first_instruction :
    step (State.reset.withFetchWord 40 0x0100000005) = exec (.seedi 5#32) State.reset ∧
    step (State.reset.withFetchWord 40 0x2000000005) = exec (.setcap 5#32) State.reset := ⟨rfl, rfl⟩

/-! ## Witnesses: concrete states and operands that meet the hypotheses of each statement that has some -/

theorem witness_EncodeOfDecodeIsTheWord : decode 0x2000000007#40 = .ok (.setcap 7#32) := by decide

theorem witness_OpcodeMapIsDisjointAndDecoded :
    opcodeRow .draw ∈ opcodeMap ∧ 0x2100000000#40 &&& (opcodeRow .draw).mask = (opcodeRow .draw).pattern := by decide

/-- Both kinds of illegal word, presented to an idle block. -/
theorem witness_IllegalWordsFaultWhenAccepted :
    (idleWith wide [0xFF00000000#40]).phase = .idle ∧ (idleWith wide [0xFF00000000#40]).resetIn = false ∧
    (idleWith wide [0xFF00000000#40]).pending = [0xFF00000000#40] ∧
    decode 0xFF00000000#40 = .error (.unassignedOp 0xFF#8) ∧
    (idleWith wide [0x21FFFFFFFF#40]).pending = [0x21FFFFFFFF#40] ∧
    decode 0x21FFFFFFFF#40 = .error (.nonzeroImm 0x21#8 0xFFFFFFFF#32) := by decide

theorem witness_PseudoInstructionsExpand : [(-1 : Int), 5] ≠ [] := by decide

theorem witness_StepRunsTheDecodedCommand :
    (idleWith wide [0x0400000000#40]).phase = .idle ∧ (idleWith wide [0x0400000000#40]).resetIn = false ∧
    (idleWith wide [0x0400000000#40]).pending = [0x0400000000#40] ∧ decode 0x0400000000#40 = .ok .seeda := by decide

theorem witness_PlacedWordIsTheNextCommand : State.reset.phase = .idle ∧ State.reset.resetIn = false := by decide

theorem witness_IdleBlockHoldsItsState :
    (shown []).phase = .idle ∧ (shown []).resetIn = false ∧ (shown []).pending = [] := by decide

/-- In `HALT`, in `IDLE` with a word presented, and while a draw runs. -/
theorem witness_ResetWinsInEveryPhase :
    stopped.assertReset.resetIn = true ∧ stopped.assertReset.phase = .halt ∧
    (idleWith wide [0#40]).assertReset.resetIn = true ∧ (judging 0#32).assertReset.resetIn = true := by decide

theorem witness_HaltIsLeftOnlyByReset :
    stopped.phase = .halt ∧ stopped.resetIn = false ∧ stopped.assertReset.phase = .halt ∧
      stopped.assertReset.resetIn = true := by decide

/-- A busy block with a word presented, and an idle one with and without. -/
theorem witness_CommandsAreHeldWhileBusy :
    (∃ t, step (judging 0#32) = .next t) ∧ (judging 0#32).busy = true ∧ (judging 0#32).resetIn = false ∧
    (∃ t, step (idleWith wide [0#40]) = .next t) ∧ (idleWith wide [0#40]).phase = .idle ∧
    (∃ t, step (idleWith wide []) = .next t) ∧ (idleWith wide []).resetIn = false :=
  ⟨⟨_, rfl⟩, by decide, by decide, ⟨_, rfl⟩, by decide, ⟨_, rfl⟩, by decide⟩

/-- A fault at the acceptance of a command, and one at a CHECK step. -/
theorem witness_FaultsArePrecise :
    (∃ t, step (idleWith wide [0x1000000000#40]) = .next t ∧ t.phase = .halt) ∧
    (idleWith wide [0x1000000000#40]).phase = .idle ∧ (idleWith wide [0x1000000000#40]).resetIn = false ∧
    (∃ t, step (judging 1#32) = .next t ∧ t.phase = .halt) ∧ (judging 1#32).phase = .check ∧
    (judging 1#32).resetIn = false :=
  ⟨⟨_, rfl, by decide⟩, by decide, by decide,
    ⟨_, checkStep_exhausted (s := judging 1#32) (by decide) (by decide) (by decide), rfl⟩, rfl, rfl⟩

/-- One command of each clause on a seeded block. -/
theorem witness_CommandsLeaveOtherRegisters :
    (∃ t, exec .keyclr (shown []) = .next t) ∧ (∃ t, exec (.keypush 9#32) (shown []) = .next t) ∧
    (∃ t, exec (.setcap 9#32) (shown []) = .next t) ∧ (∃ t, exec .draw (shown []) = .next t) ∧
    (∃ t, exec (.seedi 9#32) (shown []) = .next t) ∧ (∃ t, exec .seeda (shown []) = .next t) ∧
    (∃ t, exec .next32 (shown []) = .next t) ∧ ∃ t, exec .next31 (shown []) = .next t :=
  ⟨⟨_, rfl⟩, ⟨_, rfl⟩, ⟨_, rfl⟩, ⟨_, rfl⟩, ⟨_, rfl⟩, ⟨_, rfl⟩, ⟨_, rfl⟩, ⟨_, rfl⟩⟩

/-- One element below the capacity, and at the capacity. -/
theorem witness_KeypushAppendsOrFaults :
    ({ idleWith wide [] with key := [1#32] } : State).keylen ≠ wide.kmax ∧
    keyRead [1#32] 0 = 1#32 ∧ 0 < ({ idleWith wide [] with key := [1#32] } : State).keylen ∧
    ({ idleWith wide [] with key := [1#32, 2#32] } : State).keylen = wide.kmax := by decide

theorem witness_SeedaSeedsFromTheKey :
    ({ idleWith wide [] with key := [0#32] } : State).keylen ≠ 0 ∧ (idleWith wide []).keylen = 0 := by decide

/-- The first index of the second pass and the last before the wrap. -/
theorem witness_ArrayPassIndicesStayInRange :
    [0x123#32] ≠ [] ∧ (ArrayPass.mk fewWords 1 0).i ≠ 0 ∧ (ArrayPass.mk fewWords 623 0).i ≠ 0 := by decide

/-- At the wrap and before it, with another word than `MT[0]` and `MT[i]`. -/
theorem witness_ArrayPassIterationWritesOneWord :
    (ArrayPass.mk fewWords 623 0).i ≠ 0 ∧ (ArrayPass.mk fewWords 1 0).i ≠ 0 ∧ (ArrayPass.mk fewWords 1 0).i ≠ 623 ∧
      (7 : Fin 624) ≠ 0 ∧ (7 : Fin 624) ≠ (ArrayPass.mk fewWords 1 0).i := by decide

theorem witness_TwistReadsOldAndNewByRange :
    (0 < 227 ∧ 226 < 227) ∧ (227 ≤ 227 ∧ 227 < 623) ∧ 227 ≤ 622 ∧ 622 < 623 := by decide

theorem witness_TwistWordBitByBit : 0 < 30 ∧ 29 < 30 := by decide

/-- The stages of V23b. -/
theorem witness_TemperIsFourStages :
    (1#32 : Word32) = 1#32 ^^^ (1#32 >>> 11) ∧ 0x81#32 = 1#32 ^^^ ((1#32 <<< 7) &&& 0x9D2C5680#32) ∧
      0x00400081#32 = 0x81#32 ^^^ ((0x81#32 <<< 15) &&& 0xEFC60000#32) ∧
      0x00400091#32 = 0x00400081#32 ^^^ (0x00400081#32 >>> 18) := by decide

/-- The first and the last word of the array, the array used up, and no seeding yet. -/
theorem witness_Next32TempersTheNextWord :
    ({ shown [] with cursor := .index 0 } : State).cursor = .index (Fin.castSucc 0) ∧
    ({ shown [] with cursor := .index 623 } : State).cursor = .index (Fin.castSucc 623) ∧
    ({ shown [] with cursor := .index 624 } : State).cursor = .index 624 ∧ (idleWith wide []).cursor = .uninit := by
  decide

theorem witness_Next31IsNext32ShiftedRight :
    (shown []).cursor ≠ .uninit ∧ (idleWith wide []).cursor = .uninit := by decide

/-- Two different blocks, before a seeding and three outputs, and before a seeding alone. -/
theorem witness_OutputsDependOnTheSeedAlone :
    (∀ i ∈ [Instr.next32, .next31, .next32], i = .next32 ∨ i = .next31) ∧ [Instr.next32, .next31, .next32] ≠ [] ∧
    (idleWith wide [0x0100000007#40, 0x1000000000#40, 0x1100000000#40, 0x1000000000#40]).phase = .idle ∧
    (shown [0x0100000007#40, 0x1000000000#40, 0x1100000000#40, 0x1000000000#40]).phase = .idle ∧
    (idleWith wide []).resetIn = false ∧ (shown []).resetIn = false ∧
    [Instr.seedi 7#32, .next32, .next31, .next32].map encode =
      [0x0100000007#40, 0x1000000000#40, 0x1100000000#40, 0x1000000000#40] := by decide

/-- A cap written by a step. -/
theorem witness_SetcapAloneWritesTheCap :
    (idleWith wide [0x2000000003#40]).resetIn = false ∧
    ∃ t, step (idleWith wide [0x2000000003#40]) = .next t ∧ t.cap ≠ (idleWith wide [0x2000000003#40]).cap :=
  ⟨rfl, _, rfl, by decide⟩

theorem witness_DrawBeginsTheWarmUp :
    ((shown []).cursor ≠ .uninit ∧ (shown []).platform.len ≠ 0) ∧ (idleWith wide []).cursor = .uninit ∧
    (seededWith ⟨[], [], 1⟩ []).cursor ≠ .uninit ∧ (seededWith ⟨[], [], 1⟩ []).platform.len = 0 := by decide

/-- The last WARM step, one before it, and the first; at the last word of the array and before. -/
theorem witness_WarmUpDiscardsFourOutputs :
    ({ seededWith wide [] with phase := .warm, slot := 3, cursor := .index 624 } : State).phase = .warm ∧
    (seededWith wide []).resetIn = false ∧
    ({ seededWith wide [] with phase := .warm, slot := 3, cursor := .index 624 } : State).cursor = .index 624 ∧
    ({ seededWith wide [] with phase := .warm, slot := 3 } : State).slot = 3 ∧
    ({ seededWith wide [] with phase := .warm, slot := 2 } : State).slot ≠ 3 ∧
    ({ seededWith wide [] with phase := .warm, slot := 0 } : State).slot = 0 := by decide

theorem witness_FillDrawsOneIndexAndItsWord :
    ({ seededWith wide [] with phase := .fill, slot := 3 } : State).phase = .fill ∧
    (seededWith wide []).resetIn = false ∧
    (seededWith wide []).cursor = .index 4 ∧ (seededWith wide []).platform.len ≠ 0 ∧
    ({ seededWith wide [] with phase := .fill, slot := 3 } : State).slot = 3 ∧
    ({ seededWith wide [] with phase := .fill, slot := 2 } : State).slot ≠ 3 := by decide

theorem witness_AnAttemptTakesFourOutputs :
    ({ seededWith wide [] with phase := .fill, slot := 0 } : State).phase = .fill ∧
    ({ seededWith wide [] with phase := .fill, slot := 0 } : State).resetIn = false ∧
    ({ seededWith wide [] with phase := .fill, slot := 0 } : State).cursor = .index 4 ∧
    ({ seededWith wide [] with phase := .fill, slot := 0 } : State).platform.len ≠ 0 ∧
    ({ seededWith wide [] with phase := .fill, slot := 0 } : State).slot = 0 := by decide

/-- An accepted candidate; a rejected one at the cap, below the cap, and without a cap. -/
theorem witness_CheckAcceptsExhaustsOrRedraws :
    (accepting.phase = .check ∧ accepting.resetIn = false ∧ accepting.accepted = true) ∧
    (∀ cap, (judging cap).phase = .check ∧ (judging cap).resetIn = false ∧ (judging cap).accepted = false) ∧
    ((judging 1#32).cap ≠ 0#32 ∧ (judging 1#32).cap.toNat ≤ (judging 1#32).att.toNat) ∧
    (judging 2#32).att.toNat < (judging 2#32).cap.toNat ∧ (judging 0#32).cap = 0#32 := by
  refine ⟨by decide, fun cap => ⟨rfl, rfl, ?_⟩, by decide, by decide, by decide⟩
  have : (judging cap).accepted = (judging 0#32).accepted := rfl
  rw [this]
  decide

/-- The first candidate is accepted: words 8 to 11 give the indices 0, 1, 2, 3. -/
theorem witness_DrawEndsAtTheFirstAcceptedAttempt :
    (seededWith wide [0x2100000000#40]).phase = .idle ∧ (seededWith wide [0x2100000000#40]).resetIn = false ∧
    (seededWith wide [0x2100000000#40]).pending = encode .draw :: [] ∧
    (seededWith wide [0x2100000000#40]).cursor = .index 4 ∧ (seededWith wide [0x2100000000#40]).platform.len ≠ 0 ∧
    1 ≤ 1 ∧ attemptAccepted wide (Gen.mk fewWords 4) 1 = true ∧
    (∀ t, 1 ≤ t → t < 1 → attemptAccepted wide (Gen.mk fewWords 4) t = false) ∧
    (seededWith wide [0x2100000000#40]).cap = 0#32 :=
  ⟨rfl, rfl, rfl, rfl, by decide, by decide, by decide +kernel, fun t h h' => by omega, rfl⟩

/-- Every candidate of the one-word list is rejected. -/
theorem witness_DrawHaltsWhenTheCapIsExhausted :
    let s : State := { seededWith narrow [0x2100000000#40] with cap := 1#32 }
    s.phase = .idle ∧ s.resetIn = false ∧ s.pending = encode .draw :: [] ∧ s.cursor = .index 4 ∧ s.platform.len ≠ 0 ∧
      s.cap ≠ 0#32 ∧ ∀ t, 1 ≤ t → t ≤ s.cap.toNat → attemptAccepted s.platform (Gen.mk s.mt 4) t = false := by
  refine ⟨rfl, rfl, rfl, rfl, by decide, by decide, fun t h h' => ?_⟩
  have h1 : t ≤ 1 := h'
  have ht : t = 1 := by omega
  subst ht
  decide +kernel

/-- The invariant holds of a running draw, at any cap that has not been passed. -/
theorem inv_judging_uncapped : Inv (judging 0#32) where
  platform := ⟨by decide, by decide⟩
  key := by decide
  cursor := by decide
  halted := by decide
  running := by decide
  warm := by decide
  fill := fun h => absurd h (by decide)
  check := fun _ => ⟨by decide, by decide, by unfold State.latched; decide +kernel⟩
  cap := fun _ h => absurd rfl h
  quartet := fun h => absurd h (by decide)

theorem inv_judging_capped : Inv (judging 1#32) where
  platform := ⟨by decide, by decide⟩
  key := by decide
  cursor := by decide
  halted := by decide
  running := by decide
  warm := by decide
  fill := fun h => absurd h (by decide)
  check := fun _ => ⟨by decide, by decide, by unfold State.latched; decide +kernel⟩
  cap := fun _ _ => ⟨by decide, fun h => absurd rfl h⟩
  quartet := fun h => absurd h (by decide)

/-- The invariant holds of an accepted candidate about to be shown. -/
theorem inv_accepting : Inv accepting where
  platform := ⟨by decide, by decide⟩
  key := by decide
  cursor := by decide
  halted := by decide
  running := by decide
  warm := by decide
  fill := fun h => absurd h (by decide)
  check := fun _ => ⟨by decide, by decide, by unfold State.latched; decide +kernel⟩
  cap := fun _ h => absurd rfl h
  quartet := fun h => absurd h (by decide)

/-- The invariant holds of an idle block that shows a quartet. -/
theorem inv_shown (ws : List Cmd) : Inv (shown ws) where
  platform := (⟨by decide, by decide⟩ : wide.wf)
  key := rfl
  cursor := (by decide : (shown []).cursor ≠ .index 0)
  halted := (by decide : (shown []).phase = .halt ↔ (shown []).fault ≠ .none)
  running := fun h => absurd h (by decide : (shown []).busy ≠ true)
  warm := fun h => absurd h (by decide : (shown []).phase ≠ .warm)
  fill := fun h => absurd h (by decide : (shown []).phase ≠ .fill)
  check := fun h => absurd h (by decide : (shown []).phase ≠ .check)
  cap := fun h => absurd h (by decide : (shown []).busy ≠ true)
  quartet := fun _ => ⟨(by decide : (shown []).accepted = true),
    (by unfold State.latched; decide +kernel : ∀ k : Fin 4, (shown []).latched k)⟩

/-- The invariant holds of a halted block. -/
theorem inv_stopped : Inv stopped where
  platform := ⟨by decide, by decide⟩
  key := by decide
  cursor := by decide
  halted := by decide
  running := by decide
  warm := by decide
  fill := fun h => absurd h (by decide)
  check := fun h => absurd h (by decide)
  cap := fun h => absurd h (by decide)
  quartet := fun h => absurd h (by decide)

theorem witness_DrawNeverEndsWithoutFourWords :
    Inv (judging 0#32) ∧ (judging 0#32).busy = true ∧ (judging 0#32).resetIn = false ∧ (judging 0#32).cap = 0#32 ∧
    ((judging 0#32).platform.wl.filter (fun w => !(judging 0#32).platform.excluded w)).toFinset.card < 4 :=
  ⟨inv_judging_uncapped, by decide, by decide, by decide, by decide⟩

/-- An idle seeded block that shows a quartet, with the command presented. -/
theorem inv_before_draw : Inv { shown [0x2100000000#40] with cap := 1#32 } :=
  { inv_shown [0x2100000000#40] with cap := fun h => absurd h (by decide : (shown []).busy ≠ true) }

/-- The invariant holds of an idle seeded block with a draw presented. -/
theorem inv_seeded : Inv (seededWith wide [0x2100000000#40]) where
  platform := ⟨by decide, by decide⟩
  key := by decide
  cursor := (by decide : Cursor.index 4 ≠ .index 0)
  halted := (by decide : Phase.idle = .halt ↔ FaultKind.none ≠ .none)
  running := fun h => absurd h (by decide : Phase.idle.busy ≠ true)
  warm := fun h => absurd h (by decide : Phase.idle ≠ .warm)
  fill := fun h => absurd h (by decide : Phase.idle ≠ .fill)
  check := fun h => absurd h (by decide : Phase.idle ≠ .check)
  cap := fun h => absurd h (by decide : Phase.idle.busy ≠ true)
  quartet := fun h => absurd h (by decide)

/-- A seeded block that has shown no quartet yet, and one that shows a quartet of an earlier draw. -/
theorem witness_CappedDrawEnds :
    let s : State := { seededWith wide [0x2100000000#40] with cap := 1#32 }
    let s' : State := { shown [0x2100000000#40] with cap := 1#32 }
    (Inv s ∧ s.phase = .idle ∧ s.resetIn = false ∧ s.pending = encode .draw :: [] ∧ s.cursor ≠ .uninit ∧
      s.platform.len ≠ 0 ∧ s.cap ≠ 0#32 ∧ s.qvalid = false) ∧
    Inv s' ∧ s'.phase = .idle ∧ s'.resetIn = false ∧ s'.pending = encode .draw :: [] ∧ s'.cursor ≠ .uninit ∧
      s'.platform.len ≠ 0 ∧ s'.cap ≠ 0#32 ∧ s'.qvalid = true :=
  ⟨⟨{ inv_seeded with cap := fun h => absurd h (by decide : Phase.idle.busy ≠ true) },
      rfl, rfl, rfl, by decide, by decide, by decide, rfl⟩,
    inv_before_draw, rfl, rfl, rfl, by decide, by decide, by decide, rfl⟩

/-- A step of a running draw, of a command, and of a halted block. -/
theorem witness_StepKeepsTheInvariant :
    (Inv (judging 0#32) ∧ ∃ t, step (judging 0#32) = .next t) ∧
    (Inv (shown [0x2100000000#40]) ∧ ∃ t, step (shown [0x2100000000#40]) = .next t) ∧
    Inv stopped ∧ ∃ t, step stopped = .next t :=
  ⟨⟨inv_judging_uncapped, _, rfl⟩, ⟨inv_shown _, _, rfl⟩, inv_stopped, _, rfl⟩

theorem witness_InvariantStatesNeverStop : Inv (judging 1#32) ∧ Inv (shown [0xFF00000000#40]) :=
  ⟨inv_judging_capped, inv_shown _⟩

theorem witness_ResetMeetsTheInvariant : wide.wf := ⟨by decide, by decide⟩

/-- The draw of that block shows its quartet after ten steps. -/
theorem witness_EveryQuartetShownIsValid :
    Inv (seededWith wide [0x2100000000#40]) ∧
    runsTo 10 (seededWith wide [0x2100000000#40]) (fun t => t.qvalid) = true :=
  ⟨inv_seeded, by decide +kernel⟩

/-- A block about to halt, by a command and by a CHECK step, and a halted one. -/
theorem witness_FaultRecordsItsCause :
    (Inv (shown [0xFF00000000#40]) ∧ (shown [0xFF00000000#40]).faultCause ∧
      ∃ t, step (shown [0xFF00000000#40]) = .next t) ∧
    (Inv (judging 1#32) ∧ (judging 1#32).faultCause ∧ ∃ t, step (judging 1#32) = .next t) ∧
    Inv stopped ∧ stopped.faultCause ∧ ∃ t, step stopped = .next t :=
  ⟨⟨inv_shown _, trivial, _, rfl⟩, ⟨inv_judging_capped, trivial, _, checkStep_exhausted (s := judging 1#32) (by decide) (by decide) (by decide)⟩,
    inv_stopped, ⟨.unassignedOp 0#8, by decide⟩, _, rfl⟩

/-- A step that writes the generator and `RES`, one that writes the key, one that writes a slot. -/
theorem witness_RegistersAreWrittenByTheirOwnersOnly :
    stepsTo (shown [0x1000000000#40]) (fun t => t.cursor != (shown []).cursor && t.resv != (shown []).resv) = true ∧
    stepsTo (shown [0x0300000001#40]) (fun t => t.key != (shown []).key) = true ∧
    stepsTo { accepting with phase := .fill, slot := 1 } (fun t => t.idx != accepting.idx && t.qw != accepting.qw) = true ∧
    (shown [0x1000000000#40]).resetIn = false := by decide +kernel

/-- `QVALID` set by an accepting CHECK step, cleared by the acceptance of a draw, a fault that stays. -/
theorem witness_StatusBitsAreSticky :
    (Inv accepting ∧ accepting.resetIn = false ∧ accepting.qvalid = false ∧ accepting.seeded = true ∧
      ∃ t, step accepting = .next t ∧ t.qvalid = true) ∧
    (Inv (shown [0x2100000000#40]) ∧ (shown [0x2100000000#40]).qvalid = true ∧
      ∃ t, step (shown [0x2100000000#40]) = .next t ∧ t.qvalid = false) ∧
    (Inv { shown [] with resv := true }) ∧ ({ shown [] with resv := true } : State).resv = true ∧
    Inv stopped ∧ stopped.fault ≠ .none ∧ ∃ t, step stopped = .next t :=
  ⟨⟨inv_accepting, rfl, rfl, by decide, _, checkStep_accept (s := accepting) (by decide), rfl⟩,
    ⟨inv_shown _, rfl, _, rfl, rfl⟩, { inv_shown [] with quartet := (inv_shown []).quartet }, rfl, inv_stopped, by decide, _, rfl⟩

theorem witness_PlatformNeverChanges :
    (∃ t, step stopped.assertReset = .next t) ∧ ∃ t, step (shown [0x2100000000#40]) = .next t :=
  ⟨⟨_, rfl⟩, _, rfl⟩

/-- An unseeded block and one that shows a quartet. -/
theorem witness_DrawAfterSeedShowsTheSame :
    let ws := [encode (.seedi 7#32), encode .draw]
    (idleWith wide ws).phase = .idle ∧ (shown ws).phase = .idle ∧ (idleWith wide ws).resetIn = false ∧
      (shown ws).resetIn = false ∧ (idleWith wide ws).fault = (shown ws).fault ∧
      (idleWith wide ws).platform = (shown ws).platform ∧ (idleWith wide ws).platform.len ≠ 0 ∧
      (idleWith wide ws).cap = (shown ws).cap ∧ (idleWith wide ws).pending = ws ∧ (shown ws).pending = ws ∧
      (∃ t, run 2 (idleWith wide ws) = .next t) ∧ ∃ t, run 2 (shown ws) = .next t :=
  ⟨rfl, rfl, rfl, rfl, rfl, rfl, by decide, rfl, rfl, rfl, ⟨_, rfl⟩, _, rfl⟩

theorem witness_StatusHasItsFields : Inv stopped ∧ Inv (shown []) := ⟨inv_stopped, inv_shown _⟩

/-- Each valid condition, true and false. -/
theorem witness_PortsShowOnlyValidRegisters :
    ({ shown [] with resv := true } : State).resv = true ∧ (shown []).resv = false ∧ (shown []).qvalid = true ∧
    (idleWith wide []).qvalid = false ∧ stopped.phase = .halt ∧ (shown []).phase ≠ .halt := by decide

theorem witness_CursorEncodingIsInjective : Cursor.encode (.index 624) = Cursor.encode (.index 624) := by decide

theorem witness_UmodIsTheRemainder :
    0 < 1 ∧ 0 < 2147483648 ∧ 3 < 6 ∧ (1294424481#31).toNat = 215737413 * 6 + 3 := by decide

end Sys2Proof.Tests
end

section
namespace Sys2Proof.Proofs.Scope

open Sys2Proof Sys2Proof.Machine

/-! ## umod (00_scope.md rule R7) -/

/-- Only a multiple of `len` is taken off. -/
theorem toNat_eq_div_mul_add_umod (r : BitVec 31) {len : Nat} (h : 0 < len) :
    r.toNat = r.toNat / len * len + (umod r len).toNat := by
  rw [umod_toNat r h]
  exact (Nat.div_add_mod' r.toNat len).symm

/-- A value below `len` that differs from `r` by a multiple of `len` is `umod r len`. -/
theorem umod_toNat_eq_of_decomposition {r : BitVec 31} {len q k : Nat} (hq : q < len)
    (hr : r.toNat = k * len + q) : (umod r len).toNat = q := by
  rw [umod_toNat r (Nat.zero_lt_of_lt hq), hr, Nat.mul_add_mod', Nat.mod_eq_of_lt hq]

/-- Settles O57: the bound, the quotient `r / len` as the multiple, and the uniqueness of the remainder. -/
theorem umodIsTheRemainder : Obligations.UmodIsTheRemainder := by
  intro r len hlen
  exact ⟨umod_lt r hlen, ⟨r.toNat / len, toNat_eq_div_mul_add_umod r hlen⟩,
    fun _ _ hq hr => umod_toNat_eq_of_decomposition hq hr⟩

end Sys2Proof.Proofs.Scope
end

section
namespace Sys2Proof.Proofs.Status

open Sys2Proof Sys2Proof.Machine

/-! ## The layout of `STATUS` (10_state.md rule R22): the fields 15:5, and below them the five flags -/

theorem status_eq_concat (s : State) :
    s.status = (((((0#5 ++ s.fault.code ++ 0#3).concat s.halted).concat s.qvalid).concat s.resv).concat
      s.seeded).concat s.busy := rfl

theorem status_getLsbD_zero (s : State) : s.status.getLsbD 0 = s.busy := by
  simp only [status_eq_concat, BitVec.getLsbD_concat_zero]

theorem status_getLsbD_one (s : State) : s.status.getLsbD 1 = s.seeded := by
  simp only [status_eq_concat, BitVec.getLsbD_concat_succ, BitVec.getLsbD_concat_zero]

theorem status_getLsbD_two (s : State) : s.status.getLsbD 2 = s.resv := by
  simp only [status_eq_concat, BitVec.getLsbD_concat_succ, BitVec.getLsbD_concat_zero]

theorem status_getLsbD_three (s : State) : s.status.getLsbD 3 = s.qvalid := by
  simp only [status_eq_concat, BitVec.getLsbD_concat_succ, BitVec.getLsbD_concat_zero]

theorem status_getLsbD_four (s : State) : s.status.getLsbD 4 = s.halted := by
  simp only [status_eq_concat, BitVec.getLsbD_concat_succ, BitVec.getLsbD_concat_zero]

/-- A field that begins above bit 0 does not see bit 0. -/
theorem extractLsb'_succ_concat {n : Nat} (x : BitVec n) (b : Bool) (start len : Nat) :
    (x.concat b).extractLsb' (start + 1) len = x.extractLsb' start len :=
  BitVec.extractLsb'_append_eq_of_le (Nat.le_add_left 1 start)

/-- The fields above the flags. -/
theorem status_extractLsb'_add_five (s : State) (start len : Nat) :
    s.status.extractLsb' (start + 5) len = (0#5 ++ s.fault.code ++ 0#3).extractLsb' start len := by
  simp only [status_eq_concat, extractLsb'_succ_concat]

theorem status_bits_7_5 (s : State) : s.status.extractLsb' 5 3 = 0#3 :=
  (status_extractLsb'_add_five s 0 3).trans BitVec.extractLsb'_append_eq_right

theorem status_bits_10_8 (s : State) : s.status.extractLsb' 8 3 = s.fault.code := by
  rw [status_extractLsb'_add_five s 3 3, BitVec.extractLsb'_append_eq_of_le (by decide)]
  exact BitVec.extractLsb'_append_eq_right

theorem status_bits_15_11 (s : State) : s.status.extractLsb' 11 5 = 0#5 := by
  rw [status_extractLsb'_add_five s 6 5, BitVec.extractLsb'_append_eq_of_le (by decide)]
  exact BitVec.extractLsb'_append_eq_left

/-! ## What the flags say of the registers -/

/-- `BUSY` by the three phases of a running `DRAW`. -/
theorem busy_eq (s : State) : s.busy = (s.phase == .warm || s.phase == .fill || s.phase == .check) := by
  cases h : s.phase <;> simp [State.busy, Phase.busy, h]

theorem halted_iff_phase (s : State) : s.halted = true ↔ s.phase = .halt := by simp [State.halted]

/-- In the states of the invariant `HALTED` shows that a fault was taken. -/
theorem halted_iff_fault {s : State} (h : Inv s) : s.halted = true ↔ s.fault ≠ .none :=
  (halted_iff_phase s).trans h.halted

/-- Settles O53, field by field; under the invariant `PHASE = HALT` and `FAULT ≠ 0` are the same. -/
theorem statusHasItsFields : Obligations.StatusHasItsFields := by
  intro s
  have halted_bit (h : Inv s) : s.status.getLsbD 4 = true ↔ s.fault ≠ .none := by
    rw [status_getLsbD_four]
    exact halted_iff_fault h
  exact ⟨(status_getLsbD_zero s).trans (busy_eq s), status_getLsbD_one s, status_getLsbD_two s,
    status_getLsbD_three s, status_getLsbD_four s, halted_bit, status_bits_7_5 s, status_bits_10_8 s,
    status_bits_15_11 s⟩

end Sys2Proof.Proofs.Status
end

section
namespace Sys2Proof.Proofs.Encoding

open Sys2Proof Sys2Proof.Machine

/-! ## A word is its two fields (30_encoding.md rule R60) -/

theorem op_append_imm (w : Cmd) : (fields w).op ++ (fields w).imm = w := BitVec.extractLsb'_append_extractLsb'

theorem append_eq_append_iff {op op' : BitVec 8} {imm imm' : Word32} :
    op ++ imm = op' ++ imm' ↔ op = op' ∧ imm = imm' := by
  constructor
  · intro h
    have hf : fields (op ++ imm) = fields (op' ++ imm') := congrArg fields h
    simpa [Laws.EncodedFields.fields_append] using hf
  · rintro ⟨rfl, rfl⟩
    rfl

/-! ## What the decoder answers (rules R61 to R64) -/

theorem formatO_eq_ok_iff {f : Fields} {i j : Instr} : formatO f i = .ok j ↔ f.imm = 0#32 ∧ i = j := by
  by_cases h : f.imm = 0#32 <;> simp [formatO, h]

theorem fields_of_formatI_ok {f : Fields} {i j : Instr} (h : (.ok i : Except Illegal Instr) = .ok j)
    (hop : f.op = opcode i) (himm : f.imm = immField i) : f = ⟨opcode j, immField j⟩ := by
  obtain rfl := Except.ok.inj h
  rw [← hop, ← himm]

theorem fields_of_formatO_ok {f : Fields} {i j : Instr} (h : formatO f i = .ok j)
    (hop : f.op = opcode i) (hi : immField i = 0#32) : f = ⟨opcode j, immField j⟩ := by
  obtain ⟨himm, rfl⟩ := formatO_eq_ok_iff.1 h
  rw [← hop, hi, ← himm]

/-- Only the two fields of a command decode to it. -/
theorem fields_of_decodeFields_ok {f : Fields} {i : Instr} (h : decodeFields f = .ok i) :
    f = ⟨opcode i, immField i⟩ := by
  unfold decodeFields at h
  split_ifs at h with hop hop hop hop hop hop hop hop
  · exact fields_of_formatI_ok h hop rfl
  · exact fields_of_formatO_ok h hop rfl
  · exact fields_of_formatI_ok h hop rfl
  · exact fields_of_formatO_ok h hop rfl
  · exact fields_of_formatO_ok h hop rfl
  · exact fields_of_formatO_ok h hop rfl
  · exact fields_of_formatI_ok h hop rfl
  · exact fields_of_formatO_ok h hop rfl

theorem decodeFields_opcode_immField (i : Instr) : decodeFields ⟨opcode i, immField i⟩ = .ok i := by
  cases i <;> rfl

theorem decode_eq_ok_iff {w : Cmd} {i : Instr} : decode w = .ok i ↔ fields w = ⟨opcode i, immField i⟩ := by
  constructor
  · exact fields_of_decodeFields_ok
  · intro h
    rw [decode, h, decodeFields_opcode_immField]

/-! ## The rows of the opcode map (rule R63) -/

/-- The mask a format puts on the `imm` field: format O fixes every bit of it, format I none (rule R61). -/
def immMask : Format → Word32
  | .o => BitVec.allOnes 32
  | .i => 0#32

theorem and_immMask_eq_zero_iff (v : Word32) (k : Format) : v &&& immMask k = 0#32 ↔ (k = .o → v = 0#32) := by
  cases k with
  | o => rw [immMask, BitVec.and_allOnes]; simp
  | i => simp [immMask]

theorem opcodeRow_mask (i : Instr) :
    (opcodeRow i).mask = BitVec.allOnes 8 ++ immMask (opcodeRow i).format := by
  have format_i_mask : 0xFF00000000#40 = BitVec.allOnes 8 ++ 0#32 := by decide
  have format_o_mask : 0xFFFFFFFFFF#40 = BitVec.allOnes 8 ++ BitVec.allOnes 32 := by decide
  cases i with
  | seedi | keypush | setcap => exact format_i_mask
  | keyclr | seeda | next32 | next31 | draw => exact format_o_mask

theorem opcodeRow_pattern (i : Instr) : (opcodeRow i).pattern = opcode i ++ 0#32 := by
  cases i with
  | seedi => exact (by decide : 0x0100000000#40 = 0x01#8 ++ 0#32)
  | keyclr => exact (by decide : 0x0200000000#40 = 0x02#8 ++ 0#32)
  | keypush => exact (by decide : 0x0300000000#40 = 0x03#8 ++ 0#32)
  | seeda => exact (by decide : 0x0400000000#40 = 0x04#8 ++ 0#32)
  | next32 => exact (by decide : 0x1000000000#40 = 0x10#8 ++ 0#32)
  | next31 => exact (by decide : 0x1100000000#40 = 0x11#8 ++ 0#32)
  | setcap => exact (by decide : 0x2000000000#40 = 0x20#8 ++ 0#32)
  | draw => exact (by decide : 0x2100000000#40 = 0x21#8 ++ 0#32)

/-- A word selects a row by its opcode, and by a zero `imm` where the format asks for it. -/
theorem selects_opcodeRow_iff (w : Cmd) (i : Instr) :
    w &&& (opcodeRow i).mask = (opcodeRow i).pattern ↔
      (fields w).op = opcode i ∧ ((opcodeRow i).format = .o → (fields w).imm = 0#32) := by
  conv_lhs => rw [← op_append_imm w, opcodeRow_mask, opcodeRow_pattern, BitVec.and_append, BitVec.and_allOnes]
  rw [append_eq_append_iff, and_immMask_eq_zero_iff]

/-- The command of the same row with another operand; a format-O command has none to change (rules R61, R62). -/
def withOperand : Instr → Word32 → Instr
  | .seedi _, v => .seedi v
  | .keypush _, v => .keypush v
  | .setcap _, v => .setcap v
  | i, _ => i

@[simp] theorem opcodeRow_withOperand (i : Instr) (v : Word32) : opcodeRow (withOperand i v) = opcodeRow i := by
  cases i <;> rfl

@[simp] theorem opcode_withOperand (i : Instr) (v : Word32) : opcode (withOperand i v) = opcode i := by
  cases i <;> rfl

theorem immField_withOperand {i : Instr} {v : Word32} (h : (opcodeRow i).format = .o → v = 0#32) :
    immField (withOperand i v) = v := by
  cases i with
  | seedi | keypush | setcap => rfl
  | keyclr | seeda | next32 | next31 | draw => exact (h rfl).symm

theorem immField_of_formatO {i : Instr} (h : (opcodeRow i).format = .o) : immField i = 0#32 := by
  cases i with
  | seedi | keypush | setcap => cases h
  | keyclr | seeda | next32 | next31 | draw => rfl

/-- A word selects the row of a command iff it decodes to a command of that row. -/
theorem selects_opcodeRow_iff_decodes (w : Cmd) (i : Instr) :
    w &&& (opcodeRow i).mask = (opcodeRow i).pattern ↔ ∃ j, decode w = .ok j ∧ opcodeRow j = opcodeRow i := by
  constructor
  · intro hsel
    obtain ⟨hop, himm⟩ := (selects_opcodeRow_iff w i).1 hsel
    refine ⟨withOperand i (fields w).imm, decode_eq_ok_iff.2 ?_, opcodeRow_withOperand i _⟩
    rw [opcode_withOperand, immField_withOperand himm, ← hop]
  · rintro ⟨j, hd, hrow⟩
    rw [← hrow, selects_opcodeRow_iff, decode_eq_ok_iff.1 hd]
    exact ⟨rfl, immField_of_formatO⟩

/-- One command of each row, in the table's order. -/
def rowCommands : List Instr :=
  [.seedi 0#32, .keyclr, .keypush 0#32, .seeda, .next32, .next31, .setcap 0#32, .draw]

theorem opcodeMap_eq_map : opcodeMap = rowCommands.map opcodeRow := rfl

theorem mem_opcodeMap_iff {r : OpcodeRow} : r ∈ opcodeMap ↔ ∃ i, opcodeRow i = r := by
  constructor
  · intro h
    obtain ⟨i, -, hi⟩ := List.mem_map.1 (opcodeMap_eq_map ▸ h)
    exact ⟨i, hi⟩
  · rintro ⟨i, rfl⟩
    cases i <;> simp [opcodeMap, opcodeRow]

/-- R63's reading of the map: the selected row is the row of the decoded command. -/
theorem selects_iff_decodes (r : OpcodeRow) (w : Cmd) :
    (r ∈ opcodeMap ∧ w &&& r.mask = r.pattern) ↔ ∃ i, decode w = .ok i ∧ opcodeRow i = r := by
  constructor
  · rintro ⟨hr, hsel⟩
    obtain ⟨i, rfl⟩ := mem_opcodeMap_iff.1 hr
    exact (selects_opcodeRow_iff_decodes w i).1 hsel
  · rintro ⟨i, hd, rfl⟩
    exact ⟨mem_opcodeMap_iff.2 ⟨i, rfl⟩, (selects_opcodeRow_iff_decodes w i).2 ⟨i, hd, rfl⟩⟩

/-- No word is in two rows, because the decoder answers one command. -/
theorem opcodeMap_disjoint {r r' : OpcodeRow} {w : Cmd} (hr : r ∈ opcodeMap) (hr' : r' ∈ opcodeMap)
    (h : w &&& r.mask = r.pattern) (h' : w &&& r'.mask = r'.pattern) : r = r' := by
  obtain ⟨i, hi, rfl⟩ := (selects_iff_decodes r w).1 ⟨hr, h⟩
  obtain ⟨j, hj, rfl⟩ := (selects_iff_decodes r' w).1 ⟨hr', h'⟩
  obtain rfl : i = j := Except.ok.inj (hi.symm.trans hj)
  rfl

/-- Settles O3: the rows by evaluation, the rest from the agreement of the rows with the decoder. -/
theorem opcodeMapIsDisjointAndDecoded : Obligations.OpcodeMapIsDisjointAndDecoded :=
  ⟨rfl, fun _ _ _ hr hr' h h' => opcodeMap_disjoint hr hr' h h', selects_iff_decodes⟩

/-! ## Illegal words (rules R64, R151) -/

/-- A word is illegal iff it selects no row. -/
theorem decode_error_iff (w : Cmd) :
    (∃ e, decode w = .error e) ↔ ¬∃ i, w &&& (opcodeRow i).mask = (opcodeRow i).pattern := by
  simp only [selects_opcodeRow_iff_decodes]
  cases hd : decode w with
  | ok i => simp
  | error e => simp

theorem exists_opcode_of_mem {op : BitVec 8}
    (h : op ∈ [0x01#8, 0x02#8, 0x03#8, 0x04#8, 0x10#8, 0x11#8, 0x20#8, 0x21#8]) : ∃ i, opcode i = op := by
  obtain ⟨i, -, hi⟩ := List.mem_map.1 (show op ∈ rowCommands.map opcode from h)
  exact ⟨i, hi⟩

theorem opcode_mem_assigned (i : Instr) :
    opcode i ∈ [0x01#8, 0x02#8, 0x03#8, 0x04#8, 0x10#8, 0x11#8, 0x20#8, 0x21#8] := by
  cases i <;> simp [opcode]

theorem opcode_mem_formatO_iff (i : Instr) :
    opcode i ∈ [0x02#8, 0x04#8, 0x10#8, 0x11#8, 0x21#8] ↔ (opcodeRow i).format = .o := by
  cases i <;> simp [opcode, opcodeRow]

/-- The two checks of rule R64, as the conditions under which the fields select some row. -/
theorem exists_row_iff (op : BitVec 8) (imm : Word32) :
    (∃ i, op = opcode i ∧ ((opcodeRow i).format = .o → imm = 0#32)) ↔
      op ∈ [0x01#8, 0x02#8, 0x03#8, 0x04#8, 0x10#8, 0x11#8, 0x20#8, 0x21#8] ∧
        (op ∈ [0x02#8, 0x04#8, 0x10#8, 0x11#8, 0x21#8] → imm = 0#32) := by
  constructor
  · rintro ⟨i, rfl, himm⟩
    exact ⟨opcode_mem_assigned i, fun h => himm ((opcode_mem_formatO_iff i).1 h)⟩
  · rintro ⟨hop, himm⟩
    obtain ⟨i, rfl⟩ := exists_opcode_of_mem hop
    exact ⟨i, rfl, fun h => himm ((opcode_mem_formatO_iff i).2 h)⟩

theorem illegal_iff (w : Cmd) : (∃ e, decode w = .error e) ↔
    (w.extractLsb' 32 8 ∉ [0x01#8, 0x02#8, 0x03#8, 0x04#8, 0x10#8, 0x11#8, 0x20#8, 0x21#8] ∨
      (w.extractLsb' 32 8 ∈ [0x02#8, 0x04#8, 0x10#8, 0x11#8, 0x21#8] ∧ w.extractLsb' 0 32 ≠ 0#32)) := by
  rw [decode_error_iff]
  simp only [selects_opcodeRow_iff]
  rw [exists_row_iff, not_and_or, Classical.not_imp]
  rfl

/-- R64's count of the unassigned opcode values, over all 256. -/
theorem unassigned_opcode_count :
    ((List.range 256).filter (fun n => (opFormat (BitVec.ofNat 8 n)).isNone)).length = 248 := by
  decide +kernel

/-- R151: the illegal word leaves the port, the fault is entered, and nothing else is written. -/
theorem step_of_illegal {s : State} {w : Cmd} {rest : List Cmd} {e : Illegal} (hp : s.phase = .idle)
    (hr : s.resetIn = false) (hq : s.pending = w :: rest) (hd : decode w = .error e) :
    step s = .next { s with pending := rest, fault := .illegalCommand, fcmd := w, phase := .halt } := by
  rw [step_of_idle_some hr hp hq, acceptCommand_illegal hd]
  rfl

/-- Settles O4: the two causes, the count, the two fixed words by evaluation, and the step that accepts the word. -/
theorem illegalWordsFaultWhenAccepted : Obligations.IllegalWordsFaultWhenAccepted :=
  ⟨illegal_iff, unassigned_opcode_count, ⟨_, rfl⟩, ⟨_, rfl⟩,
    fun _ _ _ _ hp hr hq hd => step_of_illegal hp hr hq hd⟩

end Sys2Proof.Proofs.Encoding
end

section
namespace Sys2Proof.Proofs.Assembler

open Sys2Proof Sys2Proof.Machine

/-! ## The pseudo-instructions (30_encoding.md rule R68) -/

/-- The operand formed of an integer is its residue modulo 2^32, for a negative one too. -/
theorem reduce32_toNat (d : Int) : ((reduce32 d).toNat : Int) = d % 2 ^ 32 := by
  rw [reduce32, BitVec.toNat_ofInt]
  exact Int.toNat_of_nonneg (Int.emod_nonneg d (by decide))

theorem map_reduce32_toNat (ks : List Int) :
    (ks.map reduce32).map (fun v => (v.toNat : Int)) = ks.map (fun k => k % 2 ^ 32) := by
  simp [List.map_map, reduce32_toNat]

theorem assembleLine_seedd (d : Int) : assembleLine (.seedd d) = some [.seedi (reduce32 d)] := rfl

theorem assembleLine_seedarr {ks : List Int} (h : ks ≠ []) :
    assembleLine (.seedarr ks) = some (.keyclr :: (ks.map reduce32).map .keypush ++ [.seeda]) := by
  simp [assembleLine, AsmLine.wf, h]

theorem assembleLine_seedarr_nil : assembleLine (.seedarr []) = none := rfl

theorem assembleLine_nocap : assembleLine .nocap = some [.setcap 0#32] := rfl

/-- `SEEDA` right after `KEYCLR` finds no key element. -/
theorem exec_seeda_keyClear (s : State) :
    exec .seeda s.keyClear = .next (s.keyClear.raise .invalidSeed (encode .seeda)) :=
  execSeeda_empty (keylen_keyClear s)

/-- Settles O6: each expansion, and the fault of `SEEDA` on the key that `KEYCLR` left empty. -/
theorem pseudoInstructionsExpand : Obligations.PseudoInstructionsExpand :=
  ⟨fun d => ⟨reduce32 d, reduce32_toNat d, assembleLine_seedd d⟩,
    fun ks h => ⟨ks.map reduce32, map_reduce32_toNat ks, assembleLine_seedarr h⟩,
    assembleLine_seedarr_nil, assembleLine_nocap,
    fun s => ⟨s.keyClear, rfl, exec_seeda_keyClear s⟩⟩

end Sys2Proof.Proofs.Assembler
end

section
namespace Sys2Proof.Proofs.Ports

open Sys2Proof Sys2Proof.Machine

/-! ## The output ports and their valid conditions (30_encoding.md rule R70) -/

theorem cmdReadyPort_iff (s : State) : s.cmdReadyPort = true ↔ s.phase = .idle := by simp [State.cmdReadyPort]

theorem resPort_of_resv {s : State} (h : s.resv = true) : s.resPort = some s.res := if_pos h

theorem resPort_of_not_resv {s : State} (h : s.resv = false) : s.resPort = none := by simp [State.resPort, h]

theorem idxPort_of_qvalid {s : State} (h : s.qvalid = true) (k : Fin 4) : s.idxPort k = some (s.idx.get k) := if_pos h

theorem idxPort_of_not_qvalid {s : State} (h : s.qvalid = false) (k : Fin 4) : s.idxPort k = none := by
  simp [State.idxPort, h]

theorem qwPort_of_qvalid {s : State} (h : s.qvalid = true) (k : Fin 4) : s.qwPort k = some (s.qw.get k) := if_pos h

theorem qwPort_of_not_qvalid {s : State} (h : s.qvalid = false) (k : Fin 4) : s.qwPort k = none := by
  simp [State.qwPort, h]

theorem fcmdPort_of_halt {s : State} (h : s.phase = .halt) : s.fcmdPort = some s.fcmd :=
  if_pos ((Status.halted_iff_phase s).2 h)

theorem fcmdPort_of_not_halt {s : State} (h : s.phase ≠ .halt) : s.fcmdPort = none :=
  if_neg (mt (Status.halted_iff_phase s).1 h)

/-- Settles O55, port by port. -/
theorem portsShowOnlyValidRegisters : Obligations.PortsShowOnlyValidRegisters := by
  intro s
  exact ⟨cmdReadyPort_iff s, rfl, rfl, resPort_of_resv, resPort_of_not_resv,
    fun k => ⟨fun h => ⟨idxPort_of_qvalid h k, qwPort_of_qvalid h k⟩,
      fun h => ⟨idxPort_of_not_qvalid h k, qwPort_of_not_qvalid h k⟩⟩,
    fcmdPort_of_halt, fcmdPort_of_not_halt⟩

end Sys2Proof.Proofs.Ports
end

section
namespace Sys2Proof.Proofs.Seed

open Sys2Proof Sys2Proof.Machine

/-! ## SEEDI (40_seed.md rules R80, R82) -/

theorem encode_seedi (imm : Word32) : encode (.seedi imm) = 0x01#8 ++ imm := rfl

/-- R82: `MT` and `CURSOR` are written, and nothing else. -/
theorem exec_seedi_eq (imm : Word32) (s : State) :
    exec (.seedi imm) s = .next { s with mt := initMt imm s.mt, cursor := .index 624 } := by
  rw [exec_seedi, State.withGen, initInt_mt, initInt_cursor]

/-- A state with a cursor index shows `SEEDED`. -/
theorem status_seeded_of_index {s : State} {c : Fin 625} (h : s.cursor = .index c) : s.status.getLsbD 1 = true := by
  rw [Status.status_getLsbD_one, seeded_iff, h]
  exact Cursor.noConfusion

theorem initMt_read_zero (imm : Word32) (mt : Mt) : mtRead (initMt imm mt) 0 = imm := initMt_read imm mt 0

/-- R80 on the finished array: each further element is made of the one before it. -/
theorem initMt_read_succ (imm : Word32) (mt : Mt) (i : Nat) (h : i + 1 < 624) :
    mtRead (initMt imm mt) ⟨i + 1, h⟩ = initWord (mtRead (initMt imm mt) ⟨i, by omega⟩) (i + 1) := by
  rw [initMt_read, initMt_read, initSeq]

theorem initWord_eq (prev : Word32) (i : Nat) :
    initWord prev i = 1812433253#32 * (prev ^^^ (prev >>> 30)) + BitVec.ofNat 32 i := rfl

/-- Settles O17: the whole next state, and the recurrence read off the finished array. -/
theorem seediWritesEveryWord : Obligations.SeediWritesEveryWord := by
  intro imm s
  refine ⟨encode_seedi imm, initMt imm s.mt, _, exec_seedi_eq imm s, rfl, status_seeded_of_index rfl,
    initMt_read_zero imm s.mt, ?_⟩
  intro i h
  rw [initMt_read_succ, initWord_eq]

/-! ## KEYPUSH (40_seed.md rule R84) -/

theorem encode_keypush (imm : Word32) : encode (.keypush imm) = 0x03#8 ++ imm := rfl

/-- `KEY` is no part of `STATUS` (10_state.md rule R22). -/
theorem status_keyAppend (s : State) (v : Word32) : (s.keyAppend v).status = s.status := rfl

theorem exec_keypush_append {s : State} (imm : Word32) (h : s.keylen ≠ s.platform.kmax) :
    exec (.keypush imm) s = .next (s.keyAppend imm) :=
  execKeypush_append imm (Bool.eq_false_iff.2 (mt (keyFull_iff s).1 h))

theorem exec_keypush_full {s : State} (imm : Word32) (h : s.keylen = s.platform.kmax) :
    exec (.keypush imm) s = .next (s.raise .invalidSeed (0x03#8 ++ imm)) :=
  execKeypush_full imm ((keyFull_iff s).2 h)

/-- Settles O20: by whether the buffer is full. -/
theorem keypushAppendsOrFaults : Obligations.KeypushAppendsOrFaults := by
  intro imm s
  refine ⟨encode_keypush imm, ?appends, exec_keypush_full imm⟩
  case appends =>
    intro hne
    exact ⟨s.keyAppend imm, exec_keypush_append imm hne, rfl, keylen_keyAppend s imm,
      keyRead_append_last s.key imm, status_keyAppend s imm, keyRead_append_lt s.key imm⟩

end Sys2Proof.Proofs.Seed
end

section
namespace Sys2Proof.Proofs.Generate

open Sys2Proof Sys2Proof.Machine

/-! ## Tempering (41_generate.md rule R102) -/

/-- Each stage as a function of the one before it. -/
theorem temper_of_stages {y y1 y2 y3 y4 : Word32} (h1 : y1 = y ^^^ (y >>> 11))
    (h2 : y2 = y1 ^^^ ((y1 <<< 7) &&& 0x9D2C5680#32)) (h3 : y3 = y2 ^^^ ((y2 <<< 15) &&& 0xEFC60000#32))
    (h4 : y4 = y3 ^^^ (y3 >>> 18)) : temper y = y4 := by
  subst h1 h2 h3 h4
  rfl

theorem temper_zero : temper 0#32 = 0#32 := by decide

/-- Settles O27: the stages by the definition, `Temper(0)` by evaluation. -/
theorem temperIsFourStages : Obligations.TemperIsFourStages :=
  ⟨fun _ _ _ _ _ => temper_of_stages, temper_zero⟩

/-! ## The output functions (rules R103, R104) -/

theorem nextUint32_of_lt (mt : Mt) (c : Fin 624) :
    (Gen.mk mt c.castSucc).nextUint32 = (temper (mtRead mt c), ⟨mt, c.succ⟩) := by
  rw [Gen.nextUint32, ready_of_lt]

theorem nextUint32_of_last (mt : Mt) :
    (Gen.mk mt 624).nextUint32 = (temper (mtRead (twist mt) 0), ⟨twist mt, 1⟩) := by
  rw [Gen.nextUint32, ready_of_last]
  rfl

/-- A word shifted right by one fits in 31 bits, so R104 loses nothing. -/
theorem setWidth_shiftRight_one (v : Word32) : ((v >>> 1).setWidth 31).setWidth 32 = v >>> 1 := by
  bv_omega

theorem nextUint31_setWidth (g : Gen) : g.nextUint31.1.setWidth 32 = g.nextUint32.1 >>> 1 :=
  setWidth_shiftRight_one g.nextUint32.1

/-! ## NEXT32 (rule R105) -/

theorem encode_next32 : encode .next32 = 0x1000000000#40 := by decide

/-- What both commands write, in one record. -/
theorem withGen_withRes (s : State) (g : Gen) (v : Word32) :
    (s.withGen g).withRes v = { s with mt := g.mt, cursor := .index g.cursor, res := v, resv := true } := rfl

theorem exec_next32_index {s : State} {c : Fin 625} (h : s.cursor = .index c) :
    exec .next32 s =
      .next ((s.withGen (Gen.mk s.mt c).nextUint32.2).withRes (Gen.mk s.mt c).nextUint32.1) :=
  execNext32_seeded (gen?_of_index h)

/-- R105 below the end of the array: `MT` stays as it is. -/
theorem exec_next32_of_lt {s : State} {c : Fin 624} (h : s.cursor = .index c.castSucc) :
    exec .next32 s = .next { s with
      cursor := .index c.succ, res := temper (mtRead s.mt c), resv := true } := by
  rw [exec_next32_index h, nextUint32_of_lt, withGen_withRes]

/-- R105 at the end of the array: the new array is read at 0. -/
theorem exec_next32_of_last {s : State} (h : s.cursor = .index 624) :
    exec .next32 s = .next { s with
      mt := twist s.mt, cursor := .index 1, res := temper (mtRead (twist s.mt) 0), resv := true } := by
  rw [exec_next32_index h, nextUint32_of_last, withGen_withRes]

theorem exec_next32_uninit {s : State} (h : s.cursor = .uninit) :
    exec .next32 s = .next (s.raise .notSeeded 0x1000000000#40) :=
  encode_next32 ▸ execNext32_unseeded (gen?_of_uninit h)

/-- Settles O29: by where `CURSOR` is. -/
theorem next32TempersTheNextWord : Obligations.Next32TempersTheNextWord :=
  ⟨encode_next32, fun _ => ⟨fun _ => exec_next32_of_lt, exec_next32_of_last, exec_next32_uninit⟩⟩

/-! ## NEXT31 (rule R106) -/

theorem encode_next31 : encode .next31 = 0x1100000000#40 := by decide

/-- R106 in terms of the value `v` that `NEXT32` would have returned. -/
theorem exec_next31_index {s : State} {c : Fin 625} (h : s.cursor = .index c) :
    exec .next31 s =
      .next ((s.withGen (Gen.mk s.mt c).nextUint32.2).withRes ((Gen.mk s.mt c).nextUint32.1 >>> 1)) := by
  rw [exec, execNext31_seeded (gen?_of_index h), nextUint31_gen, nextUint31_setWidth]

theorem exec_next31_uninit {s : State} (h : s.cursor = .uninit) :
    exec .next31 s = .next (s.raise .notSeeded 0x1100000000#40) :=
  encode_next31 ▸ execNext31_unseeded (gen?_of_uninit h)

theorem getLsbD_31_shiftRight_one (v : Word32) : (v >>> 1).getLsbD 31 = false := by
  rw [BitVec.getLsbD_ushiftRight, BitVec.getLsbD_of_ge _ _ (by decide)]

/-- Settles O30: both commands from the one `NextUint32()` at `CURSOR`. -/
theorem next31IsNext32ShiftedRight : Obligations.Next31IsNext32ShiftedRight := by
  refine ⟨encode_next31, fun s => ⟨?seeded, exec_next31_uninit⟩⟩
  case seeded =>
    intro hne
    cases hc : s.cursor with
    | uninit => exact absurd hc hne
    | index c => exact ⟨_, exec_next32_index hc, exec_next31_index hc, getLsbD_31_shiftRight_one _, rfl⟩

end Sys2Proof.Proofs.Generate
end

section
namespace Sys2Proof.Proofs.Draw

open Sys2Proof Sys2Proof.Machine

/-! ## SETCAP (42_draw.md rule R120) -/

theorem encode_setcap (imm : Word32) : encode (.setcap imm) = 0x20#8 ++ imm := rfl

theorem exec_setcap (imm : Word32) (s : State) : exec (.setcap imm) s = .next (s.withCap imm) := rfl

/-- `CAP` is no part of `STATUS` (10_state.md rule R22). -/
theorem status_withCap (s : State) (v : Word32) : (s.withCap v).status = s.status := rfl

/-- A word that decodes to a command is the encoding of that command (30_encoding.md rule R64). -/
theorem eq_encode_of_decode_ok {w : Cmd} {i : Instr} (h : decode w = .ok i) : w = encode i := by
  rw [← Encoding.op_append_imm w, Encoding.decode_eq_ok_iff.1 h, encode]

/-- Of the commands, `SETCAP` alone writes the cap. -/
theorem execCase_cap {s t : State} {i : Instr} (h : ExecCase s i t) :
    t.cap = s.cap ∨ ∃ imm, i = .setcap imm ∧ t.cap = imm := by
  cases h with
  | setcap imm => exact .inr ⟨imm, rfl, rfl⟩
  | _ => exact .inl rfl

/-- Of the steps other than a reset, an acceptance of `SETCAP` alone writes the cap; no micro-step does. -/
theorem stepCase_cap {s t : State} (hr : s.resetIn = false) (h : StepCase s t) (hne : t.cap ≠ s.cap) :
    s.phase = .idle ∧ ∃ imm rest, s.pending = encode (.setcap imm) :: rest ∧ t.cap = imm := by
  cases h with
  | reset hr' => exact Bool.noConfusion (hr'.symm.trans hr)
  | command _ hp w rest hq i hd _ hx =>
    obtain hcap | ⟨imm, rfl, hcap⟩ := execCase_cap hx
    · exact absurd hcap hne
    · exact ⟨hp, imm, rest, eq_encode_of_decode_ok hd ▸ hq, hcap⟩
  | _ => exact absurd rfl hne

/-- Settles O33: the write by the command's meaning, its owner by the cases of a step. -/
theorem setcapAloneWritesTheCap : Obligations.SetcapAloneWritesTheCap :=
  ⟨fun imm s => ⟨encode_setcap imm, s.withCap imm, exec_setcap imm s, rfl, status_withCap s imm⟩,
    fun _ _ hr h hne => stepCase_cap hr (step_cases h) hne⟩

/-! ## The acceptance step of DRAW (rule R121) -/

theorem encode_draw : encode .draw = 0x2100000000#40 := by decide

theorem exists_gen?_of_seeded {s : State} (h : s.cursor ≠ .uninit) : ∃ g, s.gen? = some g :=
  Option.ne_none_iff_exists'.1 (mt (gen?_eq_none_iff s).1 h)

theorem exec_draw_begins {s : State} (h : s.cursor ≠ .uninit) (hl : s.platform.len ≠ 0) :
    exec .draw s = .next s.beginDraw := by
  obtain ⟨g, hg⟩ := exists_gen?_of_seeded h
  exact execDraw_begins hg hl

theorem exec_draw_unseeded {s : State} (h : s.cursor = .uninit) :
    exec .draw s = .next (s.raise .notSeeded 0x2100000000#40) :=
  encode_draw ▸ execDraw_unseeded (gen?_of_uninit h)

theorem exec_draw_empty {s : State} (h : s.cursor ≠ .uninit) (hl : s.platform.len = 0) :
    exec .draw s = .next (s.raise .emptyWordList 0x2100000000#40) := by
  obtain ⟨g, hg⟩ := exists_gen?_of_seeded h
  exact encode_draw ▸ execDraw_empty hg hl

/-- A draw that has begun shows `BUSY`. -/
theorem status_busy_beginDraw (s : State) : s.beginDraw.status.getLsbD 0 = true :=
  Status.status_getLsbD_zero s.beginDraw

/-- A draw that has begun no longer shows an earlier quartet. -/
theorem status_qvalid_beginDraw (s : State) : s.beginDraw.status.getLsbD 3 = false :=
  Status.status_getLsbD_three s.beginDraw

/-- Settles O34: by whether the generator is seeded, then by whether the list is empty. -/
theorem drawBeginsTheWarmUp : Obligations.DrawBeginsTheWarmUp :=
  ⟨encode_draw, fun s =>
    ⟨fun h hl => ⟨s.beginDraw, exec_draw_begins h hl, rfl, status_busy_beginDraw s, status_qvalid_beginDraw s⟩,
      exec_draw_unseeded, exec_draw_empty⟩⟩

/-! ## The WARM step (rule R122) -/

theorem step_warm_next {s : State} {g : Gen} (hp : s.phase = .warm) (hr : s.resetIn = false) (hg : s.gen? = some g)
    (hs : s.slot ≠ 3) : step s = .next ((s.withGen (g.after 1)).sequence .warm (s.slot + 1)) :=
  (step_of_warm hr hp).trans (warmStep_next hg hs)

theorem step_warm_last {s : State} {g : Gen} (hp : s.phase = .warm) (hr : s.resetIn = false) (hg : s.gen? = some g)
    (hs : s.slot = 3) : step s = .next ((s.withGen (g.after 1)).sequence .fill 0) :=
  (step_of_warm hr hp).trans (warmStep_last hg hs)

/-- A WARM step before the last writes `PHASE` with the value it has, which is no change. -/
theorem sequence_phase_of_eq {s : State} {p : Phase} (h : s.phase = p) (k : Fin 4) :
    s.sequence p k = { s with slot := k } := by
  subst h
  rfl

theorem withGen_of_gen? {s : State} {g : Gen} (h : s.gen? = some g) : s.withGen g = s := by
  obtain ⟨hmt, hcursor⟩ := (gen?_eq_some_iff s g).1 h
  rw [State.withGen, ← hmt, ← hcursor]

/-- `k < 4` WARM steps from slot 0 take `k` outputs and reach slot `k`. -/
theorem run_warm {s : State} {g : Gen} (hp : s.phase = .warm) (hr : s.resetIn = false) (hg : s.gen? = some g)
    (hs : s.slot = 0) (k : Fin 4) : run k s = .next ((s.withGen (g.after k)).sequence .warm k) := by
  induction k using Fin.induction with
  | zero =>
    have hself : (s.withGen g).sequence .warm 0 = s := by
      rw [withGen_of_gen? hg, sequence_phase_of_eq hp, ← hs]
    exact congrArg Host.Outcome.next hself.symm
  | succ i ih =>
    have hstep := step_warm_next (s := (s.withGen (g.after i)).sequence .warm i.castSucc) rfl hr
      (gen?_withGen s (g.after i)) i.castSucc_lt_last.ne
    rw [State.sequence_slot, Fin.coeSucc_eq_succ] at hstep
    exact (run_add_of_next ih 1).trans (run_succ_of_next hstep 0)

/-- R122: the four WARM steps of a `DRAW` together. -/
theorem run_four_warm {s : State} {g : Gen} (hp : s.phase = .warm) (hr : s.resetIn = false) (hg : s.gen? = some g)
    (hs : s.slot = 0) : run 4 s = .next ((s.withGen (g.after 4)).sequence .fill 0) := by
  have hlast := step_warm_last (s := (s.withGen (g.after 3)).sequence .warm 3) rfl hr (gen?_withGen s (g.after 3)) rfl
  exact (run_add_of_next (run_warm hp hr hg hs 3) 1).trans (run_succ_of_next hlast 0)

/-- Settles O35: one step by its slot, and the four steps by induction on the slot. -/
theorem warmUpDiscardsFourOutputs : Obligations.WarmUpDiscardsFourOutputs := by
  intro s c hp hr hc
  have hg := gen?_of_index hc
  refine ⟨step_warm_last hp hr hg, ?next, run_four_warm hp hr hg⟩
  case next =>
    intro hs
    rw [step_warm_next hp hr hg hs, sequence_phase_of_eq (s := s.withGen _) hp, State.withGen]

/-! ## The CHECK step (rules R124, R125) -/

theorem step_check_exhausted {s : State} (hp : s.phase = .check) (hr : s.resetIn = false) (ha : s.accepted = false)
    (hc : s.cap ≠ 0#32) (hn : s.cap.toNat ≤ s.att.toNat) :
    step s = .next (s.raise .drawExhausted 0x2100000000#40) := by
  rw [step_of_check hr hp, checkStep_exhausted ha hc (BitVec.le_def.2 hn), encode_draw]

theorem step_check_redraw {s : State} (hp : s.phase = .check) (hr : s.resetIn = false) (ha : s.accepted = false)
    (hc : s.cap = 0#32 ∨ s.att.toNat < s.cap.toNat) : step s = .next (s.sequence .fill 0) := by
  have hgoes : ¬(s.cap ≠ 0#32 ∧ s.cap ≤ s.att) := fun ⟨hne, hle⟩ =>
    hc.elim hne fun hlt => Nat.not_le.2 hlt (BitVec.le_def.1 hle)
  rw [step_of_check hr hp, checkStep_redraw ha hgoes]

/-- Settles O38: acceptance, then the cap, then the redraw. -/
theorem checkAcceptsExhaustsOrRedraws : Obligations.CheckAcceptsExhaustsOrRedraws :=
  fun _ hp hr => ⟨fun ha => (step_of_check hr hp).trans (checkStep_accept ha),
    step_check_exhausted hp hr, step_check_redraw hp hr⟩

theorem excluded_eq_false_iff (p : Platform) (w : Word) : p.excluded w = false ↔ w ∉ p.ex :=
  decide_eq_false_iff_not

/-- Settles O39: each of the ten Boolean terms is the proposition it tests. -/
theorem acceptMeansDistinctAndUnexcluded : Obligations.AcceptMeansDistinctAndUnexcluded := by
  intro p w0 w1 w2 w3
  simp only [acceptWords, Bool.and_eq_true, bne_iff_ne, Bool.not_eq_true', excluded_eq_false_iff, and_assoc]

end Sys2Proof.Proofs.Draw
end

section
namespace Sys2Proof.Proofs.Exceptions

open Sys2Proof Sys2Proof.Machine

/-! ## Fault entry (60_exceptions.md rule R158) -/

/-- A command whose meaning enters `HALT` raises a fault on itself and writes nothing else. -/
theorem execCase_raises {s t : State} {i : Instr} (h : ExecCase s i t) (hs : s.phase ≠ .halt) (ht : t.phase = .halt) :
    ∃ k, k ≠ .none ∧ t = s.raise k (encode i) := by
  cases h with
  | keypushFull | seedaEmpty => exact ⟨.invalidSeed, nofun, rfl⟩
  | next32Unseeded | next31Unseeded | drawUnseeded => exact ⟨.notSeeded, nofun, rfl⟩
  | drawEmpty => exact ⟨.emptyWordList, nofun, rfl⟩
  | draw => exact Phase.noConfusion ht
  | _ => exact absurd ht hs

/-- The two ways into `HALT`: the accepted word, illegal or faulting, leaves the port and is recorded, or the `CHECK`
step exhausts the cap (rules R151 to R155). -/
theorem stepCase_raises {s t : State} (h : StepCase s t) (hs : s.phase ≠ .halt) (hr : s.resetIn = false)
    (ht : t.phase = .halt) :
    (s.phase = .idle ∧ ∃ w rest k, s.pending = w :: rest ∧ k ≠ .none ∧ t = (s.withPending rest).raise k w) ∨
      (s.phase = .check ∧ t = s.raise .drawExhausted (encode .draw)) := by
  cases h with
  | reset hr' => exact Bool.noConfusion (hr'.symm.trans hr)
  | illegal _ hp w rest hq => exact .inl ⟨hp, w, rest, .illegalCommand, hq, nofun, rfl⟩
  | command _ hp w rest hq i hd _ hx =>
    obtain ⟨k, hk, rfl⟩ := execCase_raises hx hs ht
    exact .inl ⟨hp, w, rest, k, hq, hk, Draw.eq_encode_of_decode_ok hd ▸ rfl⟩
  | exhausted _ hp => exact .inr ⟨hp, rfl⟩
  | idle | halt => exact absurd ht hs
  | _ => exact Phase.noConfusion ht

/-- Settles O14: a step into `HALT` is an accepted word's fault or the exhausted cap, each a single `raise`. -/
theorem faultsArePrecise : Obligations.FaultsArePrecise := by
  intro s t hs hr hstep ht
  obtain ⟨hp, w, rest, k, hq, hk, rfl⟩ | ⟨hp, rfl⟩ := stepCase_raises (step_cases hstep) hs hr ht
  · refine ⟨?_, hk, fun _ => by rw [hq]; rfl, fun hbusy => absurd hp hbusy⟩
    rw [if_pos hp, hq]
    rfl
  · have hbusy : s.phase ≠ .idle := by simp [hp]
    refine ⟨?_, nofun, fun hidle => absurd hidle hbusy, fun _ => ⟨Draw.encode_draw, rfl⟩⟩
    rw [if_neg hbusy]
    rfl

end Sys2Proof.Proofs.Exceptions
end

section
namespace Sys2Proof.Proofs.RoundTrip

open Sys2Proof Sys2Proof.Machine

/-! ## Encoding and decoding are inverse to each other (30_encoding.md rules R60 to R64) -/

theorem decode_encode (i : Instr) : decode (encode i) = .ok i :=
  Encoding.decode_eq_ok_iff.2 (Laws.EncodedFields.fields_append (opcode i) (immField i))

/-- Settles O1: the fields read back are the opcode and the operand, and these select the command. -/
theorem decodeOfEncodeIsTheCommand : Obligations.DecodeOfEncodeIsTheCommand := decode_encode

/-- Settles O2: the fields of a legal word are those of its command, and a word is its two fields. -/
theorem encodeOfDecodeIsTheWord : Obligations.EncodeOfDecodeIsTheWord :=
  fun _ _ h => (Draw.eq_encode_of_decode_ok h).symm

/-- Settles O5: each word evaluates to the encoding of its command. -/
theorem writtenOutWordsDecode : Obligations.WrittenOutWordsDecode :=
  ⟨(by decide : 0x01FFFFFFFF#40 = encode (.seedi 0xFFFFFFFF#32)) ▸ decode_encode _,
    (by decide : 0x0200000000#40 = encode .keyclr) ▸ decode_encode _,
    (by decide : 0x0300000123#40 = encode (.keypush 0x123#32)) ▸ decode_encode _,
    (by decide : 0x0400000000#40 = encode .seeda) ▸ decode_encode _,
    (by decide : 0x1000000000#40 = encode .next32) ▸ decode_encode _,
    (by decide : 0x1100000000#40 = encode .next31) ▸ decode_encode _,
    (by decide : 0x2000000003#40 = encode (.setcap 3#32)) ▸ decode_encode _,
    (by decide : 0x2100000000#40 = encode .draw) ▸ decode_encode _⟩

end Sys2Proof.Proofs.RoundTrip
end

section
namespace Sys2Proof.Proofs.Acceptance

open Sys2Proof Sys2Proof.Machine

/-! ## The accepted word (30_encoding.md rule R69) -/

/-- An idle block runs the command its presented word decodes to. -/
theorem step_of_legal {s : State} {w : Cmd} {rest : List Cmd} {i : Instr} (hp : s.phase = .idle)
    (hr : s.resetIn = false) (hq : s.pending = w :: rest) (hd : decode w = .ok i) :
    step s = exec i (s.withPending rest) :=
  (step_of_idle_some hr hp hq).trans (acceptCommand_ok hd _)

theorem step_of_encoded {s : State} {rest : List Cmd} {i : Instr} (hp : s.phase = .idle) (hr : s.resetIn = false)
    (hq : s.pending = encode i :: rest) : step s = exec i (s.withPending rest) :=
  step_of_legal hp hr hq (RoundTrip.decode_encode i)

/-- Settles O7: acceptance, then the decoder's answer. -/
theorem stepRunsTheDecodedCommand : Obligations.StepRunsTheDecodedCommand :=
  fun _ _ _ _ hp hr hq hd => step_of_legal hp hr hq hd

/-- All 40 bits of an encoding reach the port. -/
theorem withFetchWord_encode (s : State) (i : Instr) :
    s.withFetchWord 40 (encode i).toNat = s.present (encode i) := by
  rw [State.withFetchWord, Nat.mod_eq_of_lt (encode i).isLt, BitVec.ofNat_toNat, BitVec.setWidth_eq]

/-- Settles O8: the placed word heads the port, and taking it off gives the state back. -/
theorem placedWordIsTheNextCommand : Obligations.PlacedWordIsTheNextCommand := by
  intro s i hp hr
  rw [withFetchWord_encode]
  exact step_of_encoded (s := s.present (encode i)) hp hr rfl

/-- Settles O9: with no word presented nothing is enabled. -/
theorem idleBlockHoldsItsState : Obligations.IdleBlockHoldsItsState := fun _ hp hr hq => step_of_idle_none hr hp hq

/-! ## Reset and HALT (70_reset_and_hazards.md rules R170, R171, 60_exceptions.md rule R159) -/

/-- Settles O10: reset is tested before the phase. -/
theorem resetWinsInEveryPhase : Obligations.ResetWinsInEveryPhase := fun _ hr => step_of_reset hr

/-- No `RES`, no `FCMD` and no quartet is shown after reset. -/
theorem reset_ports_silent : State.reset.resPort = none ∧ State.reset.fcmdPort = none ∧
    ∀ k : Fin 4, State.reset.idxPort k = none ∧ State.reset.qwPort k = none :=
  ⟨Ports.resPort_of_not_resv rfl, Ports.fcmdPort_of_not_halt nofun,
    fun k => ⟨Ports.idxPort_of_not_qvalid rfl k, Ports.qwPort_of_not_qvalid rfl k⟩⟩

/-- Settles O11: the registers and `STATUS` by evaluation, the ports by their valid conditions. -/
theorem resetLeavesTheBlockIdleAndUnseeded : Obligations.ResetLeavesTheBlockIdleAndUnseeded :=
  ⟨rfl, rfl, rfl, rfl, rfl, rfl, rfl, rfl, rfl, by decide, rfl, reset_ports_silent⟩

theorem run_of_halt {s : State} (hp : s.phase = .halt) (hr : s.resetIn = false) (n : Nat) : run n s = .next s := by
  induction n with
  | zero => rfl
  | succ n ih => rw [run_succ_of_next (step_of_halt hr hp), ih]

/-- Settles O12: by induction on the number of steps, and the reset step. -/
theorem haltIsLeftOnlyByReset : Obligations.HaltIsLeftOnlyByReset :=
  ⟨fun _ n hp hr => run_of_halt hp hr n, fun s _ hr => ⟨s.hardReset, step_of_reset hr, rfl, rfl⟩⟩

/-! ## The meanings are total -/

theorem exec_total (i : Instr) (s : State) : ∃ t, exec i s = .next t := by
  cases i with
  | seedi imm => exact ⟨_, exec_seedi imm s⟩
  | keyclr => exact ⟨_, rfl⟩
  | keypush imm =>
    cases hf : s.keyFull with
    | true => exact ⟨_, execKeypush_full imm hf⟩
    | false => exact ⟨_, execKeypush_append imm hf⟩
  | seeda =>
    by_cases hk : s.keylen = 0
    · exact ⟨_, execSeeda_empty hk⟩
    · exact ⟨_, execSeeda_key hk⟩
  | next32 =>
    cases hg : s.gen? with
    | none => exact ⟨_, execNext32_unseeded hg⟩
    | some g => exact ⟨_, execNext32_seeded hg⟩
  | next31 =>
    cases hg : s.gen? with
    | none => exact ⟨_, execNext31_unseeded hg⟩
    | some g => exact ⟨_, execNext31_seeded hg⟩
  | setcap imm => exact ⟨_, rfl⟩
  | draw =>
    cases hg : s.gen? with
    | none => exact ⟨_, execDraw_unseeded hg⟩
    | some g =>
      by_cases hl : s.platform.len = 0
      · exact ⟨_, execDraw_empty hg hl⟩
      · exact ⟨_, execDraw_begins hg hl⟩

/-- No command touches the platform or the host's side of the ports. -/
theorem execCase_host {s t : State} {i : Instr} (h : ExecCase s i t) :
    t.platform = s.platform ∧ t.pending = s.pending ∧ t.resetIn = s.resetIn := by
  cases h <;> exact ⟨rfl, rfl, rfl⟩

/-- Settles O15: totality by the conditions each command tests, and the frame by the cases of its answer. -/
theorem everyCommandCompletes : Obligations.EveryCommandCompletes := by
  intro i s
  obtain ⟨t, h⟩ := exec_total i s
  exact ⟨t, h, execCase_host (exec_cases h)⟩

/-! ## The command port (rules R69, R175) -/

theorem stepCase_pending_of_busy {s t : State} (h : StepCase s t) (hr : s.resetIn = false) (hb : s.busy = true) :
    t.pending = s.pending := by
  cases h with
  | reset hr' => exact Bool.noConfusion (hr'.symm.trans hr)
  | illegal _ hp | command _ hp => simp [State.busy, Phase.busy, hp] at hb
  | _ => rfl

theorem stepCase_pending_of_idle {s t : State} (h : StepCase s t) (hr : s.resetIn = false) (hp : s.phase = .idle) :
    t.pending = s.pending.tail := by
  cases h with
  | reset hr' => exact Bool.noConfusion (hr'.symm.trans hr)
  | idle _ _ hq => rw [hq]; rfl
  | illegal _ _ w rest hq => rw [hq]; rfl
  | command _ _ w rest hq i hd _ hx =>
    obtain ⟨-, hpending, -⟩ := execCase_host hx
    rw [hpending, hq]
    rfl
  | warmLast _ hp' | warm _ hp' | fillLast _ hp' | fill _ hp' | accept _ hp' | exhausted _ hp' | redraw _ hp'
  | halt _ hp' => exact Phase.noConfusion (hp.symm.trans hp')

/-- Settles O13: micro-steps leave the port alone, and an idle step takes its head. -/
theorem commandsAreHeldWhileBusy : Obligations.CommandsAreHeldWhileBusy := by
  intro s t hr hstep
  have h := step_cases hstep
  exact ⟨stepCase_pending_of_busy h hr, stepCase_pending_of_idle h hr⟩

end Sys2Proof.Proofs.Acceptance
end

section
namespace Sys2Proof.Proofs.Primitives

open Sys2Proof Sys2Proof.Machine

/-! ## The arithmetic primitives (00_scope.md rule R6) -/

/-- A difference below zero comes back into range by one multiple of 2^32. -/
theorem sub32_toInt_emod (a b : Word32) : ((sub32 a b).toNat : Int) = ((a.toNat : Int) - b.toNat) % 2 ^ 32 := by
  rw [BitVec.toNat_sub]
  omega

/-- Settles O58: the library's value of each operation on numbers or bits. -/
theorem primitivesReduceModulo : Obligations.PrimitivesReduceModulo := by
  intro a b n
  refine ⟨BitVec.toNat_add a b, sub32_toInt_emod a b, BitVec.toNat_mul a b, ?shl, ?shr, fun i =>
    ⟨BitVec.getLsbD_xor, BitVec.getLsbD_and, BitVec.getLsbD_or⟩⟩
  case shl => rw [BitVec.toNat_shiftLeft, Nat.shiftLeft_eq]
  case shr => rw [BitVec.toNat_ushiftRight, Nat.shiftRight_eq_div_pow]

/-! ## CURSOR and FAULT codes (10_state.md rule R11, 60_exceptions.md rule R150) -/

theorem encode_uninit_toNat : Cursor.uninit.encode.toNat = 625 := rfl

theorem encode_index_toNat (c : Fin 625) : (Cursor.index c).encode.toNat = c.val :=
  Nat.mod_eq_of_lt (Nat.lt_trans c.isLt (by decide))

/-- An index has an encoding below the sentinel's. -/
theorem encode_index_ne_uninit (c : Fin 625) : (Cursor.index c).encode ≠ Cursor.uninit.encode := fun h =>
  c.isLt.ne ((encode_index_toNat c).symm.trans (congrArg BitVec.toNat h))

theorem cursorEncode_toNat_le (c : Cursor) : c.encode.toNat ≤ 625 := by
  cases c with
  | uninit => exact encode_uninit_toNat.le
  | index c => exact (encode_index_toNat c).trans_le c.isLt.le

theorem cursorEncode_injective {c d : Cursor} (h : c.encode = d.encode) : c = d := by
  cases c with
  | uninit =>
    cases d with
    | uninit => rfl
    | index d => exact absurd h.symm (encode_index_ne_uninit d)
  | index c =>
    cases d with
    | uninit => exact absurd h (encode_index_ne_uninit c)
    | index d =>
      have hval : c.val = d.val := by rw [← encode_index_toNat, h, encode_index_toNat]
      rw [Fin.ext hval]

/-- Settles O56: an index encodes to itself, the sentinel to 625. -/
theorem cursorEncodingIsInjective : Obligations.CursorEncodingIsInjective :=
  ⟨rfl, cursorEncode_toNat_le, fun _ _ => cursorEncode_injective⟩

/-- Settles O54, by the table of codes. -/
theorem faultCodesAreOneToFive : Obligations.FaultCodesAreOneToFive := ⟨rfl, rfl, rfl, rfl, rfl, rfl⟩

end Sys2Proof.Proofs.Primitives
end

section
namespace Sys2Proof.Proofs.Invariant

open Sys2Proof Sys2Proof.Machine

/-! ## States in which no DRAW runs -/

/-- Without a running `DRAW` the invariant says nothing of the candidate being made. -/
theorem inv_of_not_busy {t : State} (platform : t.platform.wf) (key : Memory.wf t = true)
    (cursor : t.cursor ≠ .index 0) (halted : t.phase = .halt ↔ t.fault ≠ .none)
    (quartet : t.qvalid = true → t.quartetValid) (hb : t.busy = false) : Inv t where
  platform := platform
  key := key
  cursor := cursor
  halted := halted
  running h := Bool.noConfusion (h.symm.trans hb)
  warm h := by simp [State.busy, Phase.busy, h] at hb
  fill h := by simp [State.busy, Phase.busy, h] at hb
  check h := by simp [State.busy, Phase.busy, h] at hb
  cap h := Bool.noConfusion (h.symm.trans hb)
  quartet := quartet

theorem busy_of_idle {s : State} (h : s.phase = .idle) : s.busy = false := by simp [State.busy, Phase.busy, h]

/-- A block that is not halted has taken no fault. -/
theorem fault_none_of_not_halt {s : State} (h : Inv s) (hp : s.phase ≠ .halt) : s.fault = .none :=
  Decidable.not_not.1 (mt h.halted.2 hp)

theorem inv_reset {p : Platform} (ws : List Cmd) (hp : p.wf) :
    Inv { State.reset with platform := p, pending := ws } :=
  inv_of_not_busy hp ((wf_iff _).2 (Nat.zero_le _)) nofun ⟨nofun, absurd rfl⟩ nofun rfl

/-- Config's list is cut to R5's bound, and its capacity is a successor. -/
theorem configured_wf : Platform.configured.wf :=
  ⟨Nat.succ_pos _, (List.length_take_le _ _).trans_lt (by decide)⟩

/-- Settles O45: the reset state is idle, unseeded and without fault, key or quartet. -/
theorem resetMeetsTheInvariant : Obligations.ResetMeetsTheInvariant :=
  ⟨inv_reset [] configured_wf, fun _ ws hp => inv_reset ws hp⟩

/-! ## Commands keep the invariant -/

theorem inv_withPending {s : State} (h : Inv s) (ws : List Cmd) : Inv (s.withPending ws) where
  platform := h.platform
  key := h.key
  cursor := h.cursor
  halted := h.halted
  running := h.running
  warm := h.warm
  fill := h.fill
  check := h.check
  cap := h.cap
  quartet := h.quartet

theorem inv_raise {s : State} (h : Inv s) {k : FaultKind} (hk : k ≠ .none) (w : Cmd) : Inv (s.raise k w) :=
  inv_of_not_busy h.platform h.key h.cursor ⟨fun _ => hk, fun _ => rfl⟩ h.quartet rfl

/-- The generator of an idle block may be replaced by any whose cursor is not 0 (10_state.md rule R12). -/
theorem inv_withGen_of_idle {s : State} (h : Inv s) (hp : s.phase = .idle) {g : Gen} (hg : g.cursor ≠ 0) :
    Inv (s.withGen g) :=
  inv_of_not_busy h.platform h.key (fun hc => hg (Cursor.index.inj hc)) h.halted h.quartet (busy_of_idle hp)

/-- `NEXT32` and `NEXT31` also write `RES`, of which the invariant says nothing. -/
theorem inv_output_of_idle {s : State} (h : Inv s) (hp : s.phase = .idle) (g : Gen) (v : Word32) :
    Inv ((s.withGen g.nextUint32.2).withRes v) :=
  inv_of_not_busy h.platform h.key (inv_withGen_of_idle h hp (nextUint32_cursor_ne_zero g)).cursor h.halted h.quartet
    (busy_of_idle hp)

theorem inv_keyClear_of_idle {s : State} (h : Inv s) (hp : s.phase = .idle) : Inv s.keyClear :=
  inv_of_not_busy h.platform (keyClear_wf s) h.cursor h.halted h.quartet (busy_of_idle hp)

theorem inv_keyAppend_of_idle {s : State} (h : Inv s) (hp : s.phase = .idle) (v : Word32) (hf : s.keyFull = false) :
    Inv (s.keyAppend v) :=
  inv_of_not_busy h.platform (keyAppend_wf v h.key hf) h.cursor h.halted h.quartet (busy_of_idle hp)

theorem inv_withCap_of_idle {s : State} (h : Inv s) (hp : s.phase = .idle) (v : Word32) : Inv (s.withCap v) :=
  inv_of_not_busy h.platform h.key h.cursor h.halted h.quartet (busy_of_idle hp)

theorem seeded_of_gen? {s : State} {g : Gen} (h : s.gen? = some g) : s.seeded = true := by
  obtain ⟨-, hc⟩ := (gen?_eq_some_iff s g).1 h
  exact (seeded_iff s).2 (hc ▸ nofun)

/-- A `DRAW` begins with no attempt counted, so below any cap. -/
theorem inv_beginDraw {s : State} (h : Inv s) (hp : s.phase = .idle) {g : Gen} (hg : s.gen? = some g)
    (hl : s.platform.len ≠ 0) : Inv s.beginDraw where
  platform := h.platform
  key := h.key
  cursor := h.cursor
  halted := ⟨nofun, fun hf => absurd (fault_none_of_not_halt h (hp ▸ nofun)) hf⟩
  running _ := ⟨seeded_of_gen? hg, hl, rfl⟩
  warm _ := rfl
  fill := nofun
  check := nofun
  cap _ hc := ⟨BitVec.le_def.2 (Nat.zero_le _), fun _ => (BitVec.pos_iff_ne_zero s.cap).2 hc⟩
  quartet := nofun

theorem inv_of_execCase {s t : State} {i : Instr} (h : Inv s) (hp : s.phase = .idle) (hx : ExecCase s i t) : Inv t := by
  cases hx with
  | seedi imm g hg => exact inv_withGen_of_idle h hp (hg ▸ initInt_cursor imm s.mt ▸ nofun)
  | seeda _ g hg => exact inv_withGen_of_idle h hp (hg ▸ initArray_cursor s.key s.mt ▸ nofun)
  | keyclr => exact inv_keyClear_of_idle h hp
  | keypush imm hf => exact inv_keyAppend_of_idle h hp imm hf
  | next32 g | next31 g => exact inv_output_of_idle h hp g _
  | setcap imm => exact inv_withCap_of_idle h hp imm
  | draw g hg hl => exact inv_beginDraw h hp hg hl
  | keypushFull | seedaEmpty | next32Unseeded | next31Unseeded | drawUnseeded | drawEmpty =>
    exact inv_raise h (by decide) _

/-! ## The slots (42_draw.md rule R123) -/

theorem le_of_lt_slot_succ {j k : Fin 4} (hj : j ≠ 3) (hk : k < j + 1) : k ≤ j := by
  have hsucc : (j + 1).val = j.val + 1 := Fin.val_add_one_of_lt (Fin.lt_last_iff_ne_last.2 hj)
  rw [Fin.lt_def, hsucc] at hk
  exact Nat.le_of_lt_succ hk

theorem latched_latch_same {s : State} {r : BitVec 31} {w : Word} (hl : s.platform.len ≠ 0)
    (hw : s.platform.wlRead (umod r s.platform.len) = some w) :
    (s.latch (umod r s.platform.len) w).latched s.slot := by
  simpa [State.latched, Vector.get_eq_getElem] using ⟨umod_lt r (Nat.pos_of_ne_zero hl), hw⟩

theorem latched_latch_ne {s : State} {q : BitVec 31} {w : Word} {k : Fin 4} (hk : k ≠ s.slot) :
    (s.latch q w).latched k ↔ s.latched k := by
  have hne : s.slot.val ≠ k.val := fun e => hk (Fin.ext e.symm)
  simp [State.latched, Vector.get_eq_getElem, hne]

/-- A FILL step latches its own slot and keeps those before it. -/
theorem latched_latch_of_le {s : State} {r : BitVec 31} {w : Word} (hl : s.platform.len ≠ 0)
    (hw : s.platform.wlRead (umod r s.platform.len) = some w) (hfill : ∀ k : Fin 4, k < s.slot → s.latched k)
    {k : Fin 4} (hk : k ≤ s.slot) : (s.latch (umod r s.platform.len) w).latched k := by
  obtain rfl | hlt := hk.eq_or_lt
  · exact latched_latch_same hl hw
  · exact (latched_latch_ne hlt.ne).2 (hfill k hlt)

/-! ## Micro-steps keep the invariant -/

/-- What every micro-step that goes on with the `DRAW` has to show, by the phase it leads to. -/
theorem inv_of_running {s t : State} (h : Inv s) (hb : s.busy = true)
    (hsame : t.platform = s.platform ∧ t.key = s.key ∧ t.fault = s.fault ∧ t.qvalid = s.qvalid ∧ t.cap = s.cap)
    (cursor : t.cursor ≠ .index 0) (seeded : t.seeded = true) (running : t.busy = true)
    (warm : t.phase = .warm → t.att = 0#32)
    (fill : t.phase = .fill → ∀ k : Fin 4, k < t.slot → t.latched k)
    (check : t.phase = .check → t.slot = 3 ∧ t.att ≠ 0#32 ∧ ∀ k : Fin 4, t.latched k)
    (cap : t.cap ≠ 0#32 → t.att ≤ t.cap ∧ (t.phase ≠ .check → t.att < t.cap)) : Inv t := by
  obtain ⟨hplatform, hkey, hfault, hqvalid, -⟩ := hsame
  obtain ⟨-, hl, hq⟩ := h.running hb
  have hrun : s.phase ≠ .halt := fun e => by simp [State.busy, Phase.busy, e] at hb
  have hrun' : t.phase ≠ .halt := fun e => by simp [State.busy, Phase.busy, e] at running
  exact {
    platform := hplatform ▸ h.platform
    key := wf_of_same hkey hplatform h.key
    cursor := cursor
    halted := ⟨fun e => absurd e hrun', fun e => absurd (hfault.trans (fault_none_of_not_halt h hrun)) e⟩
    running := fun _ => ⟨seeded, hplatform ▸ hl, hqvalid.trans hq⟩
    warm := warm
    fill := fill
    check := check
    cap := fun _ => cap
    quartet := fun e => Bool.noConfusion (e.symm.trans (hqvalid.trans hq)) }

theorem index_nextUint31_ne_zero (g : Gen) : Cursor.index g.nextUint31.2.cursor ≠ .index 0 :=
  fun e => nextUint32_cursor_ne_zero g (Cursor.index.inj e)

theorem attSucc_ne_zero (a : Word32) : attSucc a ≠ 0#32 := by
  intro e
  have h := attSucc_toNat a
  rw [e, BitVec.toNat_ofNat] at h
  omega

/-- Counting an attempt that was still allowed does not pass the cap. -/
theorem attSucc_le {a c : Word32} (h : a < c) : attSucc a ≤ c := by
  rw [BitVec.lt_def] at h
  rw [BitVec.le_def, attSucc_toNat]
  omega

theorem busy_of_phase {s : State} {p : Phase} (hp : s.phase = p) (hb : p.busy = true) : s.busy = true := by
  rw [State.busy, hp, hb]

theorem inv_warmLast {s : State} (h : Inv s) (hp : s.phase = .warm) (g : Gen) :
    Inv ((s.withGen g.nextUint31.2).sequence .fill 0) := by
  have hb := busy_of_phase hp rfl
  exact inv_of_running h hb ⟨rfl, rfl, rfl, rfl, rfl⟩ (index_nextUint31_ne_zero g) rfl rfl nofun
    (fun _ k hk => absurd hk (Fin.not_lt_zero k)) nofun
    (fun hc => ⟨(h.cap hb hc).1, fun _ => (h.cap hb hc).2 (hp ▸ nofun)⟩)

theorem inv_warmNext {s : State} (h : Inv s) (hp : s.phase = .warm) (g : Gen) (k : Fin 4) :
    Inv ((s.withGen g.nextUint31.2).sequence .warm k) := by
  have hb := busy_of_phase hp rfl
  exact inv_of_running h hb ⟨rfl, rfl, rfl, rfl, rfl⟩ (index_nextUint31_ne_zero g) rfl rfl (fun _ => h.warm hp)
    nofun nofun (fun hc => ⟨(h.cap hb hc).1, fun _ => (h.cap hb hc).2 (hp ▸ nofun)⟩)

section Fill

variable {s : State} {g : Gen} {w : Word} (h : Inv s) (hp : s.phase = .fill)
  (hw : s.platform.wlRead (umod g.nextUint31.1 s.platform.len) = some w)

include h hp hw

theorem latched_after_fill {k : Fin 4} (hk : k ≤ s.slot) :
    (s.latch (umod g.nextUint31.1 s.platform.len) w).latched k := by
  obtain ⟨-, hl, -⟩ := h.running (busy_of_phase hp rfl)
  exact latched_latch_of_le hl hw (h.fill hp) hk

theorem inv_fillLast (hs : s.slot = 3) :
    Inv ((((s.withGen g.nextUint31.2).latch (umod g.nextUint31.1 s.platform.len) w).countAttempt).sequence
      .check s.slot) := by
  have hb := busy_of_phase hp rfl
  have hlatched (k : Fin 4) : (s.latch (umod g.nextUint31.1 s.platform.len) w).latched k :=
    latched_after_fill h hp hw (hs ▸ k.le_last)
  exact inv_of_running h hb ⟨rfl, rfl, rfl, rfl, rfl⟩ (index_nextUint31_ne_zero g) rfl rfl nofun nofun
    (fun _ => ⟨hs, attSucc_ne_zero s.att, hlatched⟩)
    (fun hc => ⟨attSucc_le ((h.cap hb hc).2 (hp ▸ nofun)), absurd rfl⟩)

theorem inv_fillNext (hs : s.slot ≠ 3) :
    Inv (((s.withGen g.nextUint31.2).latch (umod g.nextUint31.1 s.platform.len) w).sequence .fill (s.slot + 1)) := by
  have hb := busy_of_phase hp rfl
  have hlatched (k : Fin 4) (hk : k < s.slot + 1) : (s.latch (umod g.nextUint31.1 s.platform.len) w).latched k :=
    latched_after_fill h hp hw (le_of_lt_slot_succ hs hk)
  exact inv_of_running h hb ⟨rfl, rfl, rfl, rfl, rfl⟩ (index_nextUint31_ne_zero g) rfl rfl nofun
    (fun _ => hlatched) nofun (fun hc => ⟨(h.cap hb hc).1, fun _ => (h.cap hb hc).2 (hp ▸ nofun)⟩)

end Fill

/-- The accepted candidate was latched whole, so the quartet shown is valid. -/
theorem inv_finishDraw {s : State} (h : Inv s) (hp : s.phase = .check) (ha : s.accepted = true) : Inv s.finishDraw := by
  obtain ⟨-, -, hlatched⟩ := h.check hp
  have hfault : s.fault = .none := fault_none_of_not_halt h (hp ▸ nofun)
  exact inv_of_not_busy h.platform h.key h.cursor ⟨nofun, absurd hfault⟩ (fun _ => ⟨ha, hlatched⟩) rfl

/-- A redraw is begun below the cap only. -/
theorem inv_redraw {s : State} (h : Inv s) (hp : s.phase = .check) (hc : ¬(s.cap ≠ 0#32 ∧ s.cap ≤ s.att)) :
    Inv (s.sequence .fill 0) := by
  have hb := busy_of_phase hp rfl
  obtain ⟨hseeded, -, -⟩ := h.running hb
  have hlt (hcap : s.cap ≠ 0#32) : s.att < s.cap := BitVec.not_le.1 fun hle => hc ⟨hcap, hle⟩
  exact inv_of_running h hb ⟨rfl, rfl, rfl, rfl, rfl⟩ h.cursor hseeded rfl nofun
    (fun _ k hk => absurd hk (Fin.not_lt_zero k)) nofun (fun hcap => ⟨(h.cap hb hcap).1, fun _ => hlt hcap⟩)

theorem inv_of_stepCase {s t : State} (h : Inv s) (hx : StepCase s t) : Inv t := by
  cases hx with
  | reset => exact inv_reset s.pending.tail h.platform
  | idle | halt => exact h
  | illegal _ _ w rest => exact inv_raise (inv_withPending h rest) (by decide) w
  | command _ hp w rest _ i _ _ hx => exact inv_of_execCase (inv_withPending h rest) hp hx
  | warmLast _ hp g => exact inv_warmLast h hp g
  | warm _ hp g => exact inv_warmNext h hp g _
  | fillLast _ hp g _ w hw hs => exact inv_fillLast h hp hw hs
  | fill _ hp g _ w hw hs => exact inv_fillNext h hp hw hs
  | accept _ hp ha => exact inv_finishDraw h hp ha
  | exhausted => exact inv_raise h (by decide) _
  | redraw _ hp _ hc => exact inv_redraw h hp hc

/-- Settles O44: one lemma for each thing a step can do. -/
theorem stepKeepsTheInvariant : Obligations.StepKeepsTheInvariant :=
  fun _ _ h hstep => inv_of_stepCase h (step_cases hstep)

/-! ## Progress (log 9) -/

theorem exists_gen?_of_busy {s : State} (h : Inv s) (hb : s.busy = true) : ∃ g, s.gen? = some g := by
  obtain ⟨hseeded, -, -⟩ := h.running hb
  exact Draw.exists_gen?_of_seeded ((seeded_iff s).1 hseeded)

theorem warmStep_total {s : State} {g : Gen} (hg : s.gen? = some g) : ∃ t, warmStep s = .next t := by
  by_cases hs : s.slot = 3
  · exact ⟨_, warmStep_last hg hs⟩
  · exact ⟨_, warmStep_next hg hs⟩

theorem fillStep_total {s : State} {g : Gen} (hg : s.gen? = some g) (hl : s.platform.len ≠ 0) :
    ∃ t, fillStep s = .next t := by
  obtain ⟨w, hw⟩ := wlRead_umod s.platform g.nextUint31.1 (Nat.pos_of_ne_zero hl)
  by_cases hs : s.slot = 3
  · exact ⟨_, fillStep_last hg hw hs⟩
  · exact ⟨_, fillStep_next hg hw hs⟩

theorem checkStep_total (s : State) : ∃ t, checkStep s = .next t := by
  cases ha : s.accepted with
  | true => exact ⟨_, checkStep_accept ha⟩
  | false =>
    by_cases hc : s.cap ≠ 0#32 ∧ s.cap ≤ s.att
    · exact ⟨_, checkStep_exhausted ha hc.1 hc.2⟩
    · exact ⟨_, checkStep_redraw ha hc⟩

theorem acceptCommand_total (w : Cmd) (s : State) : ∃ t, acceptCommand w s = .next t := by
  obtain ⟨i, -, hx⟩ | ⟨e, -, hx⟩ := acceptCommand_cases w s
  · exact hx ▸ Acceptance.exec_total i s
  · exact ⟨_, hx⟩

theorem step_total {s : State} (h : Inv s) : ∃ t, step s = .next t := by
  cases hr : s.resetIn with
  | true => exact ⟨_, step_of_reset hr⟩
  | false =>
    cases hp : s.phase with
    | idle =>
      cases hq : s.pending with
      | nil => exact ⟨_, step_of_idle_none hr hp hq⟩
      | cons w rest => exact step_of_idle_some hr hp hq ▸ acceptCommand_total w _
    | warm =>
      obtain ⟨g, hg⟩ := exists_gen?_of_busy h (busy_of_phase hp rfl)
      exact step_of_warm hr hp ▸ warmStep_total hg
    | fill =>
      obtain ⟨g, hg⟩ := exists_gen?_of_busy h (busy_of_phase hp rfl)
      obtain ⟨-, hl, -⟩ := h.running (busy_of_phase hp rfl)
      exact step_of_fill hr hp ▸ fillStep_total hg hl
    | check => exact step_of_check hr hp ▸ checkStep_total s
    | halt => exact ⟨_, step_of_halt hr hp⟩

/-- Settles O46: a running `DRAW` has a generator and a word list, which is all its micro-steps need. -/
theorem invariantStatesNeverStop : Obligations.InvariantStatesNeverStop := fun _ => step_total

end Sys2Proof.Proofs.Invariant
end

section
namespace Sys2Proof.Proofs.Frames

open Sys2Proof Sys2Proof.Machine

/-! ## Which commands write which registers -/

section Exec

variable {s t : State} {i : Instr} (h : ExecCase s i t)

include h

theorem execCase_generator : (t.mt = s.mt ∧ t.cursor = s.cursor) ∨
    ((∃ v, i = .seedi v) ∨ i = .seeda ∨ i = .next32 ∨ i = .next31) := by
  cases h with
  | seedi imm => exact .inr (.inl ⟨imm, rfl⟩)
  | seeda => exact .inr (.inr (.inl rfl))
  | next32 => exact .inr (.inr (.inr (.inl rfl)))
  | next31 => exact .inr (.inr (.inr (.inr rfl)))
  | _ => exact .inl ⟨rfl, rfl⟩

theorem execCase_result : (t.res = s.res ∧ t.resv = s.resv) ∨ (i = .next32 ∨ i = .next31) := by
  cases h with
  | next32 => exact .inr (.inl rfl)
  | next31 => exact .inr (.inr rfl)
  | _ => exact .inl ⟨rfl, rfl⟩

theorem execCase_key : t.key = s.key ∨ (i = .keyclr ∨ ∃ v, i = .keypush v) := by
  cases h with
  | keyclr => exact .inr (.inl rfl)
  | keypush imm => exact .inr (.inr ⟨imm, rfl⟩)
  | _ => exact .inl rfl

theorem execCase_controller : (t.att = s.att ∧ t.qvalid = s.qvalid ∧ t.slot = s.slot) ∨ i = .draw := by
  cases h with
  | draw => exact .inr rfl
  | _ => exact .inl ⟨rfl, rfl, rfl⟩

/-- `KEYCLR`, `SEEDI` and `SETCAP` raise no fault (40_seed.md rules R82, R83, 42_draw.md rule R120). -/
theorem execCase_no_fault (hi : i = .keyclr ∨ (∃ v, i = .seedi v) ∨ ∃ v, i = .setcap v) :
    t.phase = s.phase ∧ t.fault = s.fault ∧ t.fcmd = s.fcmd := by
  obtain rfl | ⟨v, rfl⟩ | ⟨v, rfl⟩ := hi <;> cases h <;> exact ⟨rfl, rfl, rfl⟩

/-- The slots are written by micro-steps only. -/
theorem execCase_slots : t.idx = s.idx ∧ t.qw = s.qw := by
  cases h <;> exact ⟨rfl, rfl⟩

end Exec

/-- Settles O16: each register's writers, read the other way round. -/
theorem commandsLeaveOtherRegisters : Obligations.CommandsLeaveOtherRegisters := by
  intro i s t hexec
  have h := exec_cases hexec
  refine ⟨fun hi => (execCase_generator h).resolve_right ?gen, fun h32 h31 => (execCase_result h).resolve_right ?res,
    fun hclr hpush => (execCase_key h).resolve_right ?key, fun hcap => (Draw.execCase_cap h).resolve_right ?cap,
    fun hi => (execCase_controller h).resolve_right hi, execCase_no_fault h, execCase_slots h⟩
  case gen => obtain rfl | ⟨v, rfl⟩ | ⟨v, rfl⟩ | rfl := hi <;> simp
  case res => exact not_or.2 ⟨h32, h31⟩
  case key => exact not_or.2 ⟨hclr, not_exists.2 hpush⟩
  case cap => exact fun ⟨v, hi, _⟩ => hcap v hi

/-! ## Which steps write which registers -/

/-- A step without reset runs the presented command, or writes neither `RES` nor the key, the generator at WARM and FILL
only, and the slots at FILL only. -/
theorem stepCase_command_or_frame {s t : State} (h : StepCase s t) (hr : s.resetIn = false) :
    (s.phase = .idle ∧ ∃ i rest, s.pending = encode i :: rest ∧ ExecCase (s.withPending rest) i t) ∨
      ((t.res = s.res ∧ t.resv = s.resv) ∧ t.key = s.key ∧
        ((t.mt = s.mt ∧ t.cursor = s.cursor) ∨ s.phase = .warm ∨ s.phase = .fill) ∧
        ((t.idx = s.idx ∧ t.qw = s.qw) ∨ s.phase = .fill)) := by
  cases h with
  | reset hr' => exact Bool.noConfusion (hr'.symm.trans hr)
  | command _ hp w rest hq i hd _ hx => exact .inl ⟨hp, i, rest, Draw.eq_encode_of_decode_ok hd ▸ hq, hx⟩
  | warmLast _ hp | warm _ hp => exact .inr ⟨⟨rfl, rfl⟩, rfl, .inr (.inl hp), .inl ⟨rfl, rfl⟩⟩
  | fillLast _ hp | fill _ hp => exact .inr ⟨⟨rfl, rfl⟩, rfl, .inr (.inr hp), .inr hp⟩
  | _ => exact .inr ⟨⟨rfl, rfl⟩, rfl, .inl ⟨rfl, rfl⟩, .inl ⟨rfl, rfl⟩⟩

/-- Settles O49: the writers of a command's step are those of the command. -/
theorem registersAreWrittenByTheirOwnersOnly : Obligations.RegistersAreWrittenByTheirOwnersOnly := by
  intro s t hr hstep
  obtain ⟨hp, i, rest, hq, hx⟩ | ⟨hres, hkey, hgen, hslots⟩ := stepCase_command_or_frame (step_cases hstep) hr
  · refine ⟨fun hne => .inr (.inr ⟨hp, i, rest, hq, (execCase_generator hx).resolve_left ?_⟩),
      fun hne => ⟨hp, i, rest, hq, (execCase_result hx).resolve_left ?_⟩,
      fun hne => ⟨hp, i, rest, hq, (execCase_key hx).resolve_left hne⟩,
      fun hne => absurd (execCase_slots hx) ?_⟩ <;> exact not_and_or.2 hne
  · exact ⟨fun hne => (hgen.resolve_left (not_and_or.2 hne)).imp_right .inl, fun hne => absurd hres (not_and_or.2 hne),
      fun hne => absurd hkey hne, fun hne => hslots.resolve_left (not_and_or.2 hne)⟩

/-- Settles O51: no case of a step writes the platform. -/
theorem platformNeverChanges : Obligations.PlatformNeverChanges := by
  intro s t hstep
  cases step_cases hstep with
  | command _ _ _ rest _ _ _ _ hx =>
    obtain ⟨hplatform, -, -⟩ := Acceptance.execCase_host hx
    exact hplatform
  | _ => rfl

/-! ## What is never lost (10_state.md rules R11, R13, R19, R21) -/

theorem execCase_seeded {s t : State} {i : Instr} (h : ExecCase s i t) (hs : s.seeded = true) : t.seeded = true := by
  cases h with
  | seedi | seeda | next32 | next31 => rfl
  | _ => exact hs

theorem stepCase_seeded {s t : State} (h : StepCase s t) (hr : s.resetIn = false) (hs : s.seeded = true) :
    t.seeded = true := by
  cases h with
  | reset hr' => exact Bool.noConfusion (hr'.symm.trans hr)
  | command _ _ _ _ _ _ _ _ hx => exact execCase_seeded hx hs
  | warmLast | warm | fillLast | fill => rfl
  | _ => exact hs

theorem execCase_resv {s t : State} {i : Instr} (h : ExecCase s i t) (hs : s.resv = true) : t.resv = true := by
  cases h with
  | next32 | next31 => rfl
  | _ => exact hs

theorem stepCase_resv {s t : State} (h : StepCase s t) (hr : s.resetIn = false) (hs : s.resv = true) :
    t.resv = true := by
  obtain ⟨-, _, _, -, hx⟩ | ⟨⟨-, hresv⟩, -⟩ := stepCase_command_or_frame h hr
  · exact execCase_resv hx hs
  · exact hresv.trans hs

/-- A recorded fault means `HALT`, where a step changes nothing. -/
theorem step_of_fault {s t : State} (hi : Inv s) (hr : s.resetIn = false) (hstep : step s = .next t)
    (hf : s.fault ≠ .none) : t = s :=
  (Host.Outcome.next.inj ((step_of_halt hr (hi.halted.2 hf)).symm.trans hstep)).symm

/-- `QVALID` changes in two places: the accepting CHECK step sets it and the acceptance of `DRAW` clears it. -/
theorem stepCase_qvalid {s t : State} (h : StepCase s t) (hr : s.resetIn = false) :
    t.qvalid = s.qvalid ∨ (t.qvalid = true ∧ s.phase = .check ∧ s.accepted = true) ∨
      (t.qvalid = false ∧ s.phase = .idle ∧ s.pending.head? = some (encode .draw)) := by
  cases h with
  | reset hr' => exact Bool.noConfusion (hr'.symm.trans hr)
  | accept _ hp ha => exact .inr (.inl ⟨rfl, hp, ha⟩)
  | command _ hp w rest hq i hd _ hx =>
    cases hx with
    | draw => exact .inr (.inr ⟨rfl, hp, by rw [hq, Draw.eq_encode_of_decode_ok hd]; rfl⟩)
    | _ => exact .inl rfl
  | _ => exact .inl rfl

/-- Settles O50: the two bits by the cases of a step, the fault by `HALT`, `QVALID` by the two places it changes in. -/
theorem statusBitsAreSticky : Obligations.StatusBitsAreSticky := by
  intro s t hi hr hstep
  have h := step_cases hstep
  refine ⟨stepCase_seeded h hr, stepCase_resv h hr, fun hf => ?fault, fun hs ht => ?set, fun hs ht => ?cleared⟩
  case fault =>
    obtain rfl := step_of_fault hi hr hstep hf
    exact ⟨rfl, rfl⟩
  case set => simpa [hs, ht] using stepCase_qvalid h hr
  case cleared => simpa [hs, ht] using stepCase_qvalid h hr

end Sys2Proof.Proofs.Frames
end

section
namespace Sys2Proof.Proofs.Safety

open Sys2Proof Sys2Proof.Machine

/-! ## The quartet shown (42_draw.md rule R128) -/

theorem accepted_iff (s : State) : s.accepted = true ↔
    (s.qw.get 0 ≠ s.qw.get 1 ∧ s.qw.get 0 ≠ s.qw.get 2 ∧ s.qw.get 0 ≠ s.qw.get 3 ∧ s.qw.get 1 ≠ s.qw.get 2 ∧
      s.qw.get 1 ≠ s.qw.get 3 ∧ s.qw.get 2 ≠ s.qw.get 3) ∧
      s.qw.get 0 ∉ s.platform.ex ∧ s.qw.get 1 ∉ s.platform.ex ∧ s.qw.get 2 ∉ s.platform.ex ∧
      s.qw.get 3 ∉ s.platform.ex :=
  Draw.acceptMeansDistinctAndUnexcluded s.platform _ _ _ _

/-- The six comparisons of R125 are those of every two slots. -/
theorem qw_injective_of_accepted {s : State} (h : s.accepted = true) : Function.Injective s.qw.get := by
  obtain ⟨⟨h01, h02, h03, h12, h13, h23⟩, -⟩ := (accepted_iff s).1 h
  rw [← List.nodup_ofFn]
  show [s.qw.get 0, s.qw.get 1, s.qw.get 2, s.qw.get 3].Nodup
  simp [h01, h02, h03, h12, h13, h23]

theorem qw_not_excluded_of_accepted {s : State} (h : s.accepted = true) (k : Fin 4) :
    s.qw.get k ∉ s.platform.ex := by
  obtain ⟨-, h0, h1, h2, h3⟩ := (accepted_iff s).1 h
  fin_cases k
  · exact h0
  · exact h1
  · exact h2
  · exact h3

theorem inv_of_run {s t : State} {n : Nat} (h : Inv s) (hrun : run n s = .next t) : Inv t :=
  run_keeps Invariant.stepKeepsTheInvariant h hrun

theorem platform_of_run {s t : State} {n : Nat} (hrun : run n s = .next t) : t.platform = s.platform :=
  run_keeps (P := fun u => u.platform = s.platform)
    (fun _ _ hu hstep => (Frames.platformNeverChanges _ _ hstep).trans hu) rfl hrun

/-- Settles O47: the run keeps the invariant and the platform, and the invariant holds the quartet. -/
theorem everyQuartetShownIsValid : Obligations.EveryQuartetShownIsValid := by
  intro s n t h hrun hq
  obtain ⟨ha, hlatched⟩ := (inv_of_run h hrun).quartet hq
  rw [← platform_of_run hrun]
  exact ⟨fun j k hne he => hne (qw_injective_of_accepted ha he),
    fun k => ⟨qw_not_excluded_of_accepted ha k, hlatched k⟩⟩

/-! ## The cause of a fault (60_exceptions.md rules R151 to R155) -/

theorem faultCause_of_no_fault {s : State} (h : s.fault = .none) : s.faultCause := by
  simp [State.faultCause, h]

/-- A command accepted by a block without a fault records the condition it tested. -/
theorem faultCause_of_execCase {s t : State} {i : Instr} (h : ExecCase s i t) (hf : s.fault = .none) :
    t.faultCause := by
  cases h with
  | keypushFull imm hfull => exact .inr ⟨(keyFull_iff s).1 hfull, imm, rfl⟩
  | seedaEmpty hk => exact .inl ⟨hk, rfl⟩
  | next32Unseeded hg => exact ⟨(gen?_eq_none_iff s).1 hg, .inl rfl⟩
  | next31Unseeded hg => exact ⟨(gen?_eq_none_iff s).1 hg, .inr (.inl rfl)⟩
  | drawUnseeded hg => exact ⟨(gen?_eq_none_iff s).1 hg, .inr (.inr rfl)⟩
  | drawEmpty g hg hl => exact ⟨(seeded_iff s).1 (Invariant.seeded_of_gen? hg), hl, rfl⟩
  | _ => exact faultCause_of_no_fault hf

/-- Settles O48: a fault is entered with its cause, and a step that enters none has no fault to explain. -/
theorem faultRecordsItsCause : Obligations.FaultRecordsItsCause := by
  intro s t h hcause hstep
  have hnone (hp : s.phase ≠ .halt) : s.fault = .none := Invariant.fault_none_of_not_halt h hp
  cases step_cases hstep with
  | reset => exact faultCause_of_no_fault rfl
  | idle | halt => exact hcause
  | illegal _ _ _ _ _ e hd => exact ⟨e, hd⟩
  | command _ hp _ _ _ _ _ _ hx => exact faultCause_of_execCase hx (hnone (hp ▸ nofun))
  | exhausted _ _ ha hc hn => exact ⟨hc, hn, ha, rfl⟩
  | warmLast _ hp | warm _ hp | fillLast _ hp | fill _ hp | accept _ hp | redraw _ hp =>
    exact faultCause_of_no_fault (hnone (hp ▸ nofun))

end Sys2Proof.Proofs.Safety
end

section
namespace Sys2Proof.Proofs.SeedPasses

open Sys2Proof Sys2Proof.Machine

/-! ## The split multiplication (40_seed.md rule R81) -/

/-- A word is its upper half, shifted back, and its lower half. -/
theorem halves_add (x : Word32) : (x >>> 16) <<< 16 + (x &&& 0xFFFF#32) = x := by
  apply BitVec.eq_of_toNat_eq
  have hlow : x.toNat &&& 0xFFFF = x.toNat % 2 ^ 16 := Nat.and_two_pow_sub_one_eq_mod x.toNat 16
  have hx := x.isLt
  rw [BitVec.toNat_add, BitVec.toNat_shiftLeft, BitVec.toNat_ushiftRight, BitVec.toNat_and, Nat.shiftLeft_eq,
    Nat.shiftRight_eq_div_pow, BitVec.toNat_ofNat, Nat.mod_eq_of_lt (by decide : 0xFFFF < 2 ^ 32), hlow]
  omega

/-- Settles O18: the shift is a multiplication, so both halves have the common factor. -/
theorem splitMultiplicationIsExact : Obligations.SplitMultiplicationIsExact := by
  intro x i
  show ((x >>> 16) * Config.initMult) <<< 16 + (x &&& 0xFFFF#32) * Config.initMult + i = Config.initMult * x + i
  conv_rhs => rw [← halves_add x]
  simp only [BitVec.shiftLeft_eq_mul_twoPow]
  ring

/-! ## KEYCLR and SEEDA (rules R83, R86) -/

/-- The key is no part of `STATUS` (10_state.md rule R22). -/
theorem status_keyClear (s : State) : s.keyClear.status = s.status := rfl

/-- Settles O19: the meaning is the one write. -/
theorem keyclrEmptiesTheKey : Obligations.KeyclrEmptiesTheKey :=
  ⟨by decide, fun s => ⟨s.keyClear, rfl, rfl, keylen_keyClear s, status_keyClear s⟩⟩

theorem encode_seeda : encode .seeda = 0x0400000000#40 := by decide

theorem exec_seeda_key {s : State} (h : s.keylen ≠ 0) :
    exec .seeda s = .next { s with mt := (initArray s.key s.mt).mt, cursor := .index 624 } := by
  rw [exec, execSeeda_key h, State.withGen, initArray_cursor]

theorem exec_seeda_empty {s : State} (h : s.keylen = 0) :
    exec .seeda s = .next (s.raise .invalidSeed 0x0400000000#40) :=
  encode_seeda ▸ execSeeda_empty h

/-- R85: what the two passes leave, with `MT[0]` forced. -/
theorem initArray_mt (key : List Word32) (mt : Mt) : (initArray key mt).mt =
    mtWrite (secondPassStep^[623] ((firstPassStep key)^[max 624 key.length] ⟨initMt 19650218#32 mt, 1, 0⟩)).mt 0
      Config.arrForce := by
  have hseed : Config.arrSeed = 19650218#32 := by decide
  rw [initArray, secondPass, firstPass, hseed]

/-- Settles O21: by whether the key is empty. -/
theorem seedaSeedsFromTheKey : Obligations.SeedaSeedsFromTheKey := by
  intro s
  refine ⟨fun h => ⟨exec_seeda_key h, ?forced, fun k hk => ?others⟩, exec_seeda_empty⟩
  case forced => rw [initArray_mt, mtRead_mtWrite_same, Config.arrForce]
  case others => rw [initArray_mt, mtRead_mtWrite_ne _ _ _ _ hk, State.keylen]

/-- Settles O22: array seeding begins with integer seeding, which overwrites the array. -/
theorem arraySeedingForgetsTheOldState : Obligations.ArraySeedingForgetsTheOldState := by
  intro key mt mt'
  rw [initArray, initArray, initMt_forgets Config.arrSeed mt mt']

/-! ## One iteration of a pass (rule R85) -/

theorem wrapState_of_last (mt : Mt) : wrapState mt 623 = (mtWrite mt 0 (mtRead mt 623), 1) := rfl

theorem wrapState_of_ne_last (mt : Mt) {i : Fin 624} (h : i ≠ 623) : wrapState mt i = (mt, i + 1) := by
  have hne : i.val ≠ 623 := fun e => h (Fin.ext e)
  rw [wrapState, if_neg (by omega)]

/-- The wrap copies the last element to element 0. -/
theorem wrapState_read_zero (mt : Mt) (i : Fin 624) :
    mtRead (wrapState mt i).1 0 = if i = 623 then mtRead mt 623 else mtRead mt 0 := by
  split
  · next h => rw [h, wrapState_of_last, mtRead_mtWrite_same]
  · next h => rw [wrapState_of_ne_last mt h]

theorem wrapState_read_ne_zero (mt : Mt) (i : Fin 624) {k : Fin 624} (hk : k ≠ 0) :
    mtRead (wrapState mt i).1 k = mtRead mt k := by
  by_cases h : i = 623
  · rw [h, wrapState_of_last, mtRead_mtWrite_ne _ _ _ _ hk]
  · rw [wrapState_of_ne_last mt h]

/-- The next state index, 1 after 623. -/
theorem wrapState_index (mt : Mt) (i : Fin 624) : (wrapState mt i).2.val = 1 + i.val % 623 := by
  by_cases h : i = 623
  · rw [h, wrapState_of_last]
    rfl
  · have hne : i.val ≠ 623 := fun e => h (Fin.ext e)
    have hsucc : (i + 1).val = i.val + 1 := Fin.val_add_one_of_lt (Fin.lt_last_iff_ne_last.2 h)
    rw [wrapState_of_ne_last mt h, hsucc, Nat.mod_eq_of_lt (by omega), Nat.add_comm]

/-- `MT` after an iteration that writes `v` at `i` and wraps. -/
def passWrite (mt : Mt) (i : Fin 624) (v : Word32) : Mt := (wrapState (mtWrite mt i v) i).1

theorem passWrite_read_same (mt : Mt) {i : Fin 624} (v : Word32) (hi : i ≠ 0) : mtRead (passWrite mt i v) i = v := by
  rw [passWrite, wrapState_read_ne_zero _ _ hi, mtRead_mtWrite_same]

theorem passWrite_read_ne (mt : Mt) {i k : Fin 624} (v : Word32) (h0 : k ≠ 0) (hk : k ≠ i) :
    mtRead (passWrite mt i v) k = mtRead mt k := by
  rw [passWrite, wrapState_read_ne_zero _ _ h0, mtRead_mtWrite_ne _ _ _ _ hk]

theorem passWrite_read_zero (mt : Mt) {i : Fin 624} (v : Word32) (hi : i ≠ 0) :
    mtRead (passWrite mt i v) 0 = if i = 623 then mtRead (passWrite mt i v) 623 else mtRead mt 0 := by
  rw [passWrite, wrapState_read_zero, wrapState_read_ne_zero _ _ (by decide : (623 : Fin 624) ≠ 0),
    mtRead_mtWrite_ne _ _ _ _ hi.symm]

theorem firstPassStep_mt (key : List Word32) (p : ArrayPass) : (firstPassStep key p).mt =
    passWrite p.mt p.i (firstPassWord (mtRead p.mt (p.i - 1)) (mtRead p.mt p.i) (keyRead key p.j) p.j) := rfl

theorem secondPassStep_mt (p : ArrayPass) : (secondPassStep p).mt =
    passWrite p.mt p.i (secondPassWord (mtRead p.mt (p.i - 1)) (mtRead p.mt p.i) p.i.val) := rfl

/-- Settles O24: both passes write one word by `passWrite`, each with its own value. -/
theorem arrayPassIterationWritesOneWord : Obligations.ArrayPassIterationWritesOneWord := by
  intro key p hi
  rw [firstPassStep_mt, secondPassStep_mt]
  exact ⟨passWrite_read_same _ _ hi, passWrite_read_same _ _ hi,
    fun k h0 hk => ⟨passWrite_read_ne _ _ h0 hk, passWrite_read_ne _ _ h0 hk⟩,
    passWrite_read_zero _ _ hi, passWrite_read_zero _ _ hi⟩

/-! ## The indices of a pass (rules R42, R85) -/

theorem firstPassStep_index (key : List Word32) (p : ArrayPass) : (firstPassStep key p).i.val = 1 + p.i.val % 623 :=
  wrapState_index _ p.i

theorem secondPassStep_index (p : ArrayPass) : (secondPassStep p).i.val = 1 + p.i.val % 623 := wrapState_index _ p.i

theorem firstPassStep_keyIndex (key : List Word32) (p : ArrayPass) :
    (firstPassStep key p).j = wrapKey key.length p.j := rfl

/-- An index that moves on by one from 1 to 623 and back to 1, after `n` moves. -/
theorem index_iterate {f : ArrayPass → ArrayPass} (hf : ∀ p, (f p).i.val = 1 + p.i.val % 623) {p : ArrayPass}
    (hp : p.i ≠ 0) (n : Nat) : (f^[n] p).i.val = 1 + (p.i.val - 1 + n) % 623 := by
  have hpos : p.i.val ≠ 0 := fun e => hp (Fin.ext e)
  induction n with
  | zero =>
    have hlt := p.i.isLt
    rw [Function.iterate_zero_apply]
    omega
  | succ n ih =>
    rw [Function.iterate_succ_apply', hf, ih]
    omega

theorem wrapKey_mod (len n : Nat) (hlen : 0 < len) : wrapKey len (n % len) = (n + 1) % len := by
  have hlt := Nat.mod_lt n hlen
  rw [wrapKey, ← Nat.mod_add_mod n len 1]
  split
  · next h =>
    have hlast : n % len + 1 = len := Nat.le_antisymm hlt h
    rw [hlast, Nat.mod_self]
  · next h => rw [Nat.mod_eq_of_lt (Nat.lt_of_not_le h)]

theorem firstPass_keyIndex (key : List Word32) (mt : Mt) (hkey : 0 < key.length) (n : Nat) :
    ((firstPassStep key)^[n] ⟨mt, 1, 0⟩).j = n % key.length := by
  induction n with
  | zero => exact (Nat.zero_mod _).symm
  | succ n ih => rw [Function.iterate_succ_apply', firstPassStep_keyIndex, ih, wrapKey_mod _ _ hkey]

/-- Settles O23: the state index of both passes by the one law, the key index by the remainder. -/
theorem arrayPassIndicesStayInRange : Obligations.ArrayPassIndicesStayInRange := by
  intro key mt n hkey
  refine ⟨?first, firstPass_keyIndex key mt (List.length_pos_of_ne_nil hkey) n,
    fun p hp => index_iterate secondPassStep_index hp n⟩
  case first =>
    rw [index_iterate (firstPassStep_index key) (by decide : (1 : Fin 624) ≠ 0) n]
    show 1 + (1 - 1 + n) % 623 = 1 + n % 623
    omega

end Sys2Proof.Proofs.SeedPasses
end

section
namespace Sys2Proof.Proofs.Twist

open Sys2Proof Sys2Proof.Machine

/-! ## Old and new words in the in-place twist (41_generate.md rule R101) -/

/-- At its iteration `i` the twist still reads the old word at and after `i`. -/
theorem read_old (mt : Mt) {i j : Fin 624} (h : i ≤ j) : mtRead (loopUp twistStep i.val mt) j = mtRead mt j :=
  twistLoop_read_ge mt i.val i.isLt.le j h

/-- At its iteration `i` the twist already reads the new word before `i`. -/
theorem read_new (mt : Mt) {i j : Fin 624} (h : j < i) :
    mtRead (loopUp twistStep i.val mt) j = mtRead (twist mt) j :=
  (twistLoop_read_lt mt i.val 624 i.isLt.le le_rfl j h).symm

theorem mk_add_one {n : Nat} (h : n + 1 < 624) : (⟨n, by omega⟩ + 1 : Fin 624) = ⟨n + 1, h⟩ :=
  Fin.ext (Nat.mod_eq_of_lt h)

/-- Settles O25: each range by whether the two other words read stand before or after the one written. -/
theorem twistReadsOldAndNewByRange : Obligations.TwistReadsOldAndNewByRange := by
  intro mt
  refine ⟨fun n h => ?_, fun n h => ?_, ?_⟩
  · have hfar : (⟨n, by omega⟩ + 397 : Fin 624) = ⟨n + 397, by omega⟩ :=
      Fin.ext (show (n + 397) % 624 = n + 397 by omega)
    rw [twist_read, mk_add_one (by omega), hfar, read_old mt le_rfl, read_old mt (Fin.mk_le_mk.2 (by omega)),
      read_old mt (Fin.mk_le_mk.2 (by omega))]
  · have hfar : (⟨n, by omega⟩ + 397 : Fin 624) = ⟨n - 227, by omega⟩ :=
      Fin.ext (show (n + 397) % 624 = n - 227 by omega)
    rw [twist_read, mk_add_one (by omega), hfar, read_old mt le_rfl, read_old mt (Fin.mk_le_mk.2 (by omega)),
      read_new mt (Fin.mk_lt_mk.2 (by omega))]
  · rw [twist_read, show (623 + 1 : Fin 624) = 0 by decide, show (623 + 397 : Fin 624) = 396 by decide,
      read_old mt le_rfl, read_new mt (by decide), read_new mt (by decide)]

/-! ## The word a twist writes (rule R100) -/

/-- The mixed word: the upper bit of one word, the lower 31 bits of the next. -/
def mixed (cur succ : Word32) : Word32 := or32 (and32 cur Config.upper) (and32 succ Config.lower)

theorem mixed_getLsbD_lt (cur succ : Word32) {i : Nat} (h : i < 31) :
    (mixed cur succ).getLsbD i = succ.getLsbD i := by
  have hupper : ∀ j < 31, Config.upper.getLsbD j = false := by decide
  have hlower : ∀ j < 31, Config.lower.getLsbD j = true := by decide
  simp [mixed, hupper i h, hlower i h]

theorem mixed_getLsbD_31 (cur succ : Word32) : (mixed cur succ).getLsbD 31 = cur.getLsbD 31 := by
  simp [mixed, Config.upper, Config.lower]

/-- The twisted word's bits in terms of the mixed word, of which the successor gives bit 0. -/
theorem twistWord_getLsbD (cur succ far : Word32) (i : Nat) : (twistWord cur succ far).getLsbD i =
    ((far.getLsbD i ^^ (mixed cur succ).getLsbD (i + 1)) ^^ (succ.getLsbD 0 && (0x9908B0DF#32).getLsbD i)) := by
  have htwist : twistWord cur succ far = (far ^^^ mixed cur succ >>> 1) ^^^
      (if succ.getLsbD 0 then Config.matrixA else 0#32) := by
    rw [← mixed_getLsbD_lt cur succ (by decide : 0 < 31)]
    rfl
  rw [htwist, BitVec.getLsbD_xor, BitVec.getLsbD_xor, BitVec.getLsbD_ushiftRight, Nat.add_comm 1 i]
  cases succ.getLsbD 0 with
  | true => rfl
  | false => simp

/-- Settles O26: bits 0 to 29 see the successor, bit 30 the word itself, bit 31 no mixed bit. -/
theorem twistWordBitByBit : Obligations.TwistWordBitByBit := by
  intro cur succ far
  refine ⟨fun i h => ?_, ?_, ?_⟩
  · rw [twistWord_getLsbD, mixed_getLsbD_lt cur succ (by omega)]
  · rw [twistWord_getLsbD, mixed_getLsbD_31]
  · rw [twistWord_getLsbD, BitVec.getLsbD_of_ge (mixed cur succ) (31 + 1) (by decide)]
    simp

/-! ## Tempering is invertible (rule R102) -/

/-- A stage `y xor f y` loses nothing when `f` is linear and fixes no difference but zero. -/
theorem xor_stage_injective {f : Word32 → Word32} (hlin : ∀ x y, f (x ^^^ y) = f x ^^^ f y)
    (hfix : ∀ d, d = f d → d = 0#32) : Function.Injective fun y => y ^^^ f y := by
  intro x y h
  have hdiff : x ^^^ y = f (x ^^^ y) := by
    rw [hlin, ← BitVec.xor_eq_zero_iff]
    calc x ^^^ y ^^^ (f x ^^^ f y) = (x ^^^ f x) ^^^ (y ^^^ f y) := by ac_rfl
      _ = 0#32 := BitVec.xor_eq_zero_iff.2 h
  exact BitVec.xor_eq_zero_iff.1 (hfix _ hdiff)

theorem shiftRight_stage_injective {k : Nat} (hk : k ≠ 0) :
    Function.Injective fun y : Word32 => y ^^^ y >>> k := by
  refine xor_stage_injective (fun x y => BitVec.ushiftRight_xor_distrib x y k) fun d hd => ?_
  have hdiv : d.toNat = d.toNat / 2 ^ k := by
    conv_lhs => rw [hd, BitVec.toNat_ushiftRight, Nat.shiftRight_eq_div_pow]
  have hzero : d.toNat = 0 := by
    by_contra hne
    exact (Nat.div_lt_self (Nat.pos_of_ne_zero hne) (Nat.one_lt_two_pow hk)).ne hdiv.symm
  exact BitVec.eq_of_toNat_eq hzero

theorem xor_and_distrib (x y m : Word32) : (x ^^^ y) &&& m = (x &&& m) ^^^ (y &&& m) :=
  BitVec.eq_of_getElem_eq (by simp [Bool.and_xor_distrib_right])

/-- Here bit `i` of a fixed difference would come from bit `i - k`, so from none. -/
theorem shiftLeft_stage_injective {k : Nat} (hk : k ≠ 0) (m : Word32) :
    Function.Injective fun y : Word32 => y ^^^ (y <<< k &&& m) := by
  refine xor_stage_injective (fun x y => by rw [BitVec.shiftLeft_xor_distrib, xor_and_distrib])
    fun d hd => ?_
  have hbit (i : Nat) : d.getLsbD i = false := by
    induction i using Nat.strong_induction_on with
    | _ i ih =>
      rw [hd, BitVec.getLsbD_and, BitVec.getLsbD_shiftLeft]
      by_cases hik : i < k
      · simp [hik]
      · simp [ih (i - k) (by omega)]
  exact BitVec.eq_of_getLsbD_eq fun i _ => by rw [hbit, BitVec.getLsbD_zero]

theorem temper_eq_comp : temper =
    (fun y : Word32 => y ^^^ y >>> 18) ∘ (fun y : Word32 => y ^^^ (y <<< 15 &&& Config.temperC)) ∘
      (fun y : Word32 => y ^^^ (y <<< 7 &&& Config.temperB)) ∘ fun y : Word32 => y ^^^ y >>> 11 := rfl

/-- Settles O28: each of the four stages is injective, and an injective map of a finite type is onto. -/
theorem temperIsBijective : Obligations.TemperIsBijective := by
  refine Finite.injective_iff_bijective.1 ?_
  rw [temper_eq_comp]
  exact (shiftRight_stage_injective (by decide)).comp ((shiftLeft_stage_injective (by decide) _).comp
    ((shiftLeft_stage_injective (by decide) _).comp (shiftRight_stage_injective (by decide))))

/-! ## The output sequence (rule R103) -/

/-- An output reads the array and the cursor that `ready` answers. -/
theorem nextUint32_eq (g : Gen) :
    g.nextUint32 = (temper (mtRead g.ready.1 g.ready.2), ⟨g.ready.1, g.ready.2.succ⟩) := rfl

/-- The array and the cursor that output `n + 1` is read at. -/
theorem ready_after (mt : Mt) (n : Nat) : ((Gen.mk mt 624).after n).ready =
    (twist^[n / 624 + 1] mt, ⟨n % 624, Nat.mod_lt _ (by decide)⟩) := by
  induction n with
  | zero => exact ready_of_last mt
  | succ n ih =>
    rw [Gen.after, nextUint32_eq, ih]
    by_cases h : n % 624 + 1 < 624
    · have hdiv : (n + 1) / 624 = n / 624 := by omega
      have hmod : (n + 1) % 624 = n % 624 + 1 := by omega
      refine (ready_of_lt _ ⟨n % 624 + 1, h⟩).trans ?_
      simp only [hdiv, hmod]
    · have hdiv : (n + 1) / 624 = n / 624 + 1 := by omega
      have hmod : (n + 1) % 624 = 0 := by omega
      have hlast : (⟨n % 624, Nat.mod_lt _ (by decide)⟩ : Fin 624).succ = 624 :=
        Fin.ext (show n % 624 + 1 = 624 by omega)
      simp only [hlast, ready_of_last, hdiv, hmod, Function.iterate_succ_apply']
      rfl

/-- Settles O31: output `n + 1` and the generator after it, read off `ready`. -/
theorem outputsAreTemperedWordsOfTwists : Obligations.OutputsAreTemperedWordsOfTwists := by
  intro mt n
  rw [Gen.output32, Gen.after, Nat.add_sub_cancel, nextUint32_eq, ready_after]
  exact ⟨rfl, rfl, rfl⟩

end Sys2Proof.Proofs.Twist
end

section
namespace Sys2Proof.Proofs.Attempts

open Sys2Proof Sys2Proof.Machine

/-! ## One draw of an index and its word (42_draw.md rules R123, R126) -/

/-- The index the next output of `g` selects. -/
def drawnIdx (p : Platform) (g : Gen) : BitVec 31 := umod g.nextUint31.1 p.len

/-- The word at that index. -/
def drawnWord (p : Platform) (g : Gen) : Word := (p.wlRead (drawnIdx p g)).getD 0#40

theorem wlRead_drawnIdx {p : Platform} (hl : p.len ≠ 0) (g : Gen) :
    p.wlRead (drawnIdx p g) = some (drawnWord p g) := by
  obtain ⟨w, hw⟩ := wlRead_umod p g.nextUint31.1 (Nat.pos_of_ne_zero hl)
  rw [drawnWord, drawnIdx, hw, Option.getD_some]

theorem drawnIdx_toNat {p : Platform} (hl : p.len ≠ 0) (g : Gen) :
    (drawnIdx p g).toNat = (g.output31 1).toNat % p.len :=
  umod_toNat _ (Nat.pos_of_ne_zero hl)

theorem after_add (g : Gen) (m n : Nat) : (g.after m).after n = g.after (m + n) := by
  induction n with
  | zero => rfl
  | succ n ih => rw [Gen.after, ih, ← Nat.add_assoc, Gen.after]

/-- R126's numbering of the outputs: attempt `t` begins after `4t` of them. -/
theorem attemptIdx_eq (p : Platform) (g : Gen) (t k : Nat) :
    attemptIdx p g t k = drawnIdx p ((g.after (4 * t)).after k) := by
  rw [attemptIdx, Gen.output31, after_add, drawnIdx, Nat.add_right_comm, Nat.add_sub_cancel]

theorem attemptWord_eq (p : Platform) (g : Gen) (t k : Nat) :
    attemptWord p g t k = drawnWord p ((g.after (4 * t)).after k) := by
  rw [attemptWord, attemptIdx_eq, drawnWord]

/-! ## FILL steps (rule R123) -/

section Fill

variable {s : State} {g : Gen} (hp : s.phase = .fill) (hr : s.resetIn = false) (hg : s.gen? = some g)
  (hl : s.platform.len ≠ 0)

include hp hr hg hl

theorem step_fill_next (hs : s.slot ≠ 3) :
    step s = .next { s.withGen (g.after 1) with
      idx := s.idx.set s.slot.val (drawnIdx s.platform g), qw := s.qw.set s.slot.val (drawnWord s.platform g)
      slot := s.slot + 1 } := by
  rw [step_of_fill hr hp, fillStep_next hg (wlRead_drawnIdx hl g) hs]
  exact congrArg Host.Outcome.next (Draw.sequence_phase_of_eq (s := (s.withGen g.nextUint31.2).latch _ _) hp _)

theorem step_fill_last (hs : s.slot = 3) :
    step s = .next { s.withGen (g.after 1) with
      idx := s.idx.set 3 (drawnIdx s.platform g), qw := s.qw.set 3 (drawnWord s.platform g)
      att := attSucc s.att, phase := .check } := by
  rw [step_of_fill hr hp, fillStep_last hg (wlRead_drawnIdx hl g) hs]
  simp only [State.latch, State.withGen, State.countAttempt, State.sequence, hs]
  rfl

end Fill

/-- Settles O36: one step by its slot, with the index and the word of the next output. -/
theorem fillDrawsOneIndexAndItsWord : Obligations.FillDrawsOneIndexAndItsWord := by
  intro s c hp hr hc hl
  have hg := gen?_of_index hc
  exact ⟨drawnIdx s.platform ⟨s.mt, c⟩, drawnWord s.platform ⟨s.mt, c⟩, drawnIdx_toNat hl _, wlRead_drawnIdx hl _,
    step_fill_last hp hr hg hl, step_fill_next hp hr hg hl⟩

/-- Four writes in slot order leave nothing of the old vector. -/
theorem set_four {α : Type} (v : Vector α 4) (a b c d : α) :
    (((v.set 0 a).set 1 b).set 2 c).set 3 d = #v[a, b, c, d] := by
  apply Vector.ext
  intro i hi
  interval_cases i <;> simp

/-- The index of each of the next four outputs. -/
def fourIdx (p : Platform) (g : Gen) : Vector (BitVec 31) 4 :=
  #v[drawnIdx p (g.after 0), drawnIdx p (g.after 1), drawnIdx p (g.after 2), drawnIdx p (g.after 3)]

/-- The word of each of the next four outputs. -/
def fourWords (p : Platform) (g : Gen) : Vector Word 4 :=
  #v[drawnWord p (g.after 0), drawnWord p (g.after 1), drawnWord p (g.after 2), drawnWord p (g.after 3)]

theorem fourIdx_get (p : Platform) (g : Gen) (k : Fin 4) : (fourIdx p g).get k = drawnIdx p (g.after k) := by
  fin_cases k <;> rfl

theorem fourWords_get (p : Platform) (g : Gen) (k : Fin 4) : (fourWords p g).get k = drawnWord p (g.after k) := by
  fin_cases k <;> rfl

/-- `s` in FILL at slot `k`, with another generator and other slots. -/
def filling (s : State) (g : Gen) (idx : Vector (BitVec 31) 4) (qw : Vector Word 4) (k : Fin 4) : State :=
  { s.withGen g with idx := idx, qw := qw, slot := k }

theorem filling_self {s : State} {g : Gen} {k : Fin 4} (hg : s.gen? = some g) (hs : s.slot = k) :
    filling s g s.idx s.qw k = s := by
  subst hs
  exact Draw.withGen_of_gen? hg

/-- The CHECK state after an attempt that takes the next four outputs of `g`. -/
def attempted (s : State) (g : Gen) : State :=
  { s.withGen (g.after 4) with
    idx := fourIdx s.platform g, qw := fourWords s.platform g, att := attSucc s.att, slot := 3, phase := .check }

/-- One attempt: four outputs, whatever words they fetch, and one count. -/
theorem run_four_fill {s : State} {g : Gen} (hp : s.phase = .fill) (hr : s.resetIn = false) (hg : s.gen? = some g)
    (hl : s.platform.len ≠ 0) (hs : s.slot = 0) :
    run 4 s = .next (attempted s g) := by
  have hnext (n : Nat) (i : Vector (BitVec 31) 4) (v : Vector Word 4) (k : Fin 4) (hk : k ≠ 3) :
      step (filling s (g.after n) i v k) = .next (filling s (g.after (n + 1))
        (i.set k (drawnIdx s.platform (g.after n))) (v.set k (drawnWord s.platform (g.after n))) (k + 1)) :=
    step_fill_next (s := filling s (g.after n) i v k) hp hr rfl hl hk
  have hlast (i : Vector (BitVec 31) 4) (v : Vector Word 4) :=
    step_fill_last (s := filling s (g.after 3) i v 3) (g := g.after 3) hp hr rfl hl rfl
  conv_lhs => rw [← filling_self (g := g.after 0) hg hs]
  refine (run_succ_of_next (hnext 0 _ _ 0 (by decide)) 3).trans ((run_succ_of_next (hnext 1 _ _ 1 (by decide)) 2).trans
    ((run_succ_of_next (hnext 2 _ _ 2 (by decide)) 1).trans ((run_succ_of_next (hlast _ _) 0).trans ?_)))
  rw [run_zero, attempted, fourIdx, fourWords, ← set_four s.idx, ← set_four s.qw]
  rfl

/-- Settles O37: the state after one attempt, its slots read one by one. -/
theorem anAttemptTakesFourOutputs : Obligations.AnAttemptTakesFourOutputs := by
  intro s c hp hr hc hl hs
  refine ⟨_, run_four_fill hp hr (gen?_of_index hc) hl hs, rfl, rfl, rfl, rfl, fun k => ?_⟩
  simp only [attempted, fourIdx_get, fourWords_get]
  exact ⟨drawnIdx_toNat hl _, wlRead_drawnIdx hl _⟩

end Sys2Proof.Proofs.Attempts
end

section
namespace Sys2Proof.Proofs.WholeDraw

open Sys2Proof Sys2Proof.Machine

/-! ## The states a DRAW goes through (42_draw.md rules R126, R127) -/

/-- The CHECK state that judges attempt `a`. -/
def judged (s : State) (g : Gen) (rest : List Cmd) (a : Nat) : State :=
  { s.afterAttempts g a with pending := rest, phase := .check }

/-- The FILL state that begins attempt `a + 1`, with whatever the slots then hold. -/
def redrawing (s : State) (g : Gen) (rest : List Cmd) (a : Nat) (idx : Vector (BitVec 31) 4) (qw : Vector Word 4) :
    State :=
  { s.afterAttempts g a with pending := rest, idx := idx, qw := qw, slot := 0, phase := .fill }

theorem redrawing_gen? (s : State) (g : Gen) (rest : List Cmd) (a : Nat) (idx : Vector (BitVec 31) 4)
    (qw : Vector Word 4) : (redrawing s g rest a idx qw).gen? = some (g.after (4 + 4 * a)) :=
  (gen?_eq_some_iff _ _).2 ⟨rfl, rfl⟩

theorem judged_accepted (s : State) (g : Gen) (rest : List Cmd) (a : Nat) :
    (judged s g rest a).accepted = attemptAccepted s.platform g a := rfl

theorem judged_att_toNat (s : State) (g : Gen) (rest : List Cmd) (a : Nat) :
    (judged s g rest a).att.toNat = min a (2 ^ 32 - 1) :=
  Nat.mod_eq_of_lt (by omega)

/-- The saturating count of one more attempt (10_state.md rule R16). -/
theorem attSucc_ofNat_min (a : Nat) :
    attSucc (BitVec.ofNat 32 (min a (2 ^ 32 - 1))) = BitVec.ofNat 32 (min (a + 1) (2 ^ 32 - 1)) := by
  apply BitVec.eq_of_toNat_eq
  rw [attSucc_toNat, BitVec.toNat_ofNat, BitVec.toNat_ofNat]
  omega

/-- The attempt begun after `a` others is attempt `a + 1`. -/
theorem attempted_redrawing (s : State) (g : Gen) (rest : List Cmd) (a : Nat) (idx : Vector (BitVec 31) 4)
    (qw : Vector Word 4) :
    Attempts.attempted (redrawing s g rest a idx qw) (g.after (4 + 4 * a)) = judged s g rest (a + 1) := by
  have hgen : (g.after (4 + 4 * a)).after 4 = g.after (4 + 4 * (a + 1)) :=
    (Attempts.after_add g _ _).trans (congrArg g.after (by omega))
  have hfirst : g.after (4 + 4 * a) = g.after (4 * (a + 1)) := congrArg g.after (by omega)
  simp only [judged, redrawing, State.withGen, State.afterAttempts, Attempts.attempted, Attempts.fourIdx,
    Attempts.fourWords, Attempts.attemptIdx_eq, Attempts.attemptWord_eq, ← attSucc_ofNat_min, ← hgen, ← hfirst]

section Draw

variable {s : State} {g : Gen} {rest : List Cmd} (hr : s.resetIn = false)

include hr

theorem step_judged_accepted {a : Nat} (hacc : attemptAccepted s.platform g a = true) :
    step (judged s g rest a) = .next (judged s g rest a).finishDraw :=
  (step_of_check (s := judged s g rest a) hr rfl).trans (checkStep_accept (judged_accepted s g rest a ▸ hacc))

theorem step_judged_rejected {a : Nat} (hrej : attemptAccepted s.platform g a = false)
    (hcap : s.cap = 0#32 ∨ a < s.cap.toNat) :
    step (judged s g rest a) = .next (redrawing s g rest a (judged s g rest a).idx (judged s g rest a).qw) := by
  have hbelow : s.cap = 0#32 ∨ (judged s g rest a).att.toNat < s.cap.toNat :=
    hcap.imp_right fun h => (judged_att_toNat s g rest a).trans_lt ((Nat.min_le_left _ _).trans_lt h)
  exact Draw.step_check_redraw rfl hr (judged_accepted s g rest a ▸ hrej) hbelow

theorem step_judged_exhausted {a : Nat} (hrej : attemptAccepted s.platform g a = false) (hcap : s.cap ≠ 0#32)
    (ha : s.cap.toNat = a) :
    step (judged s g rest a) = .next ((judged s g rest a).raise .drawExhausted 0x2100000000#40) := by
  have hreached : s.cap.toNat ≤ (judged s g rest a).att.toNat := by
    have hlt := s.cap.isLt
    rw [judged_att_toNat]
    omega
  exact Draw.step_check_exhausted rfl hr (judged_accepted s g rest a ▸ hrej) hcap hreached

variable (hl : s.platform.len ≠ 0)

include hl

theorem run_attempt (a : Nat) (idx : Vector (BitVec 31) 4) (qw : Vector Word 4) :
    run 4 (redrawing s g rest a idx qw) = .next (judged s g rest (a + 1)) := by
  rw [← attempted_redrawing]
  exact Attempts.run_four_fill rfl hr (redrawing_gen? s g rest a idx qw) hl rfl

/-- The acceptance step and the four WARM steps. -/
theorem run_to_first_attempt (hp : s.phase = .idle) (hq : s.pending = encode .draw :: rest) (hg : s.gen? = some g) :
    run 5 s = .next (redrawing s g rest 0 s.idx s.qw) := by
  have haccept : step s = .next (s.withPending rest).beginDraw :=
    (Acceptance.step_of_encoded hp hr hq).trans (execDraw_begins (s := s.withPending rest) hg hl)
  have hwarm := Draw.run_four_warm (s := (s.withPending rest).beginDraw) rfl hr hg rfl
  rw [run_succ_of_next haccept, hwarm, redrawing, State.afterAttempts, Nat.mul_zero, Nat.add_zero, Nat.zero_min]
  simp only [State.sequence, State.withGen, State.beginDraw, State.withPending]

/-- `a` rejected attempts under a cap that allows one more. -/
theorem run_to_judged (hp : s.phase = .idle) (hq : s.pending = encode .draw :: rest) (hg : s.gen? = some g) (a : Nat)
    (hrej : ∀ t, 1 ≤ t → t ≤ a → attemptAccepted s.platform g t = false) (hcap : s.cap = 0#32 ∨ a < s.cap.toNat) :
    run (1 + 4 + 5 * a + 4) s = .next (judged s g rest (a + 1)) := by
  induction a with
  | zero =>
    have hsteps : 1 + 4 + 5 * 0 + 4 = 5 + 4 := rfl
    rw [hsteps, run_add_of_next (run_to_first_attempt hr hl hp hq hg)]
    exact run_attempt hr hl 0 _ _
  | succ a ih =>
    have hbefore := ih (fun t h1 ha => hrej t h1 (Nat.le_succ_of_le ha)) (hcap.imp_right Nat.lt_of_succ_lt)
    have hredraw := step_judged_rejected (rest := rest) hr (hrej (a + 1) (Nat.le_add_left 1 a) le_rfl) hcap
    have hsteps : 1 + 4 + 5 * (a + 1) + 4 = 1 + 4 + 5 * a + 4 + 5 := by omega
    rw [hsteps, run_add_of_next hbefore, run_succ_of_next hredraw]
    exact run_attempt hr hl (a + 1) _ _

end Draw

/-- Settles O40: the attempts before `a` are judged and rejected, and `a` is judged and accepted. -/
theorem drawEndsAtTheFirstAcceptedAttempt : Obligations.DrawEndsAtTheFirstAcceptedAttempt := by
  intro s c rest a hp hr hq hc hl h1 hacc hrej hcap
  obtain ⟨a, rfl⟩ := Nat.exists_eq_add_of_le' h1
  have hjudged := run_to_judged hr hl hp hq (gen?_of_index hc) a (fun t ht ha => hrej t ht (Nat.lt_succ_of_le ha))
    (hcap.imp_right Nat.lt_of_succ_le)
  have hsteps : 1 + 4 + 5 * (a + 1) = 1 + 4 + 5 * a + 4 + 1 := by omega
  rw [hsteps, run_add_of_next hjudged, run_succ_of_next (step_judged_accepted hr hacc), run_zero, State.finishDraw,
    judged]

/-- Settles O41: the attempt that exhausts the cap is judged and rejected. -/
theorem drawHaltsWhenTheCapIsExhausted : Obligations.DrawHaltsWhenTheCapIsExhausted := by
  intro s c rest hp hr hq hc hl hcap hrej
  obtain ⟨a, ha⟩ := Nat.exists_eq_add_one_of_ne_zero (fun e => hcap (BitVec.eq_of_toNat_eq e))
  have hjudged := run_to_judged hr hl hp hq (gen?_of_index hc) a (fun t ht hta => hrej t ht (by omega))
    (.inr (by omega))
  have hhalt := step_judged_exhausted (rest := rest) hr (hrej (a + 1) (Nat.le_add_left 1 a) ha.ge) hcap ha
  have hsteps : 1 + 4 + 5 * (a + 1) = 1 + 4 + 5 * a + 4 + 1 := by omega
  rw [ha, hsteps, run_add_of_next hjudged, run_succ_of_next hhalt, run_zero, State.raise, judged]

/-! ## A DRAW under a cap ends (rules R126, R127) -/

theorem ofNat_min_le {a : Nat} {c : Word32} (h : a ≤ c.toNat) : BitVec.ofNat 32 (min a (2 ^ 32 - 1)) ≤ c := by
  rw [BitVec.le_def, BitVec.toNat_ofNat]
  exact (Nat.mod_le _ _).trans ((Nat.min_le_left _ _).trans h)

/-- Settles O43: some attempt up to the cap is the first accepted one, or none is accepted. -/
theorem cappedDrawEnds : Obligations.CappedDrawEnds := by
  intro s rest _ hp hr hq hseeded hl hcap
  obtain ⟨g, hg⟩ := Draw.exists_gen?_of_seeded hseeded
  obtain ⟨-, hc⟩ := (gen?_eq_some_iff s g).1 hg
  by_cases hsome : ∃ a, 1 ≤ a ∧ a ≤ s.cap.toNat ∧ attemptAccepted s.platform ⟨s.mt, g.cursor⟩ a = true
  · obtain ⟨h1, hle, hacc⟩ := Nat.find_spec hsome
    have hfirst (t : Nat) (ht : 1 ≤ t) (hlt : t < Nat.find hsome) :
        attemptAccepted s.platform ⟨s.mt, g.cursor⟩ t = false := by
      have hnot := Nat.find_min hsome hlt
      exact Bool.eq_false_iff.2 fun hacc => hnot ⟨ht, by omega, hacc⟩
    exact ⟨_, _, by omega, by omega,
      drawEndsAtTheFirstAcceptedAttempt s g.cursor rest _ hp hr hq hc hl h1 hacc hfirst (.inr hle), rfl,
      ofNat_min_le hle, .inl ⟨rfl, rfl⟩⟩
  · have hnone (t : Nat) (ht : 1 ≤ t) (hle : t ≤ s.cap.toNat) :
        attemptAccepted s.platform ⟨s.mt, g.cursor⟩ t = false :=
      Bool.eq_false_iff.2 fun hacc => hsome ⟨t, ht, hle, hacc⟩
    exact ⟨_, _, by omega, le_rfl, drawHaltsWhenTheCapIsExhausted s g.cursor rest hp hr hq hc hl hcap hnone, rfl,
      ofNat_min_le le_rfl, .inr ⟨rfl, rfl, rfl⟩⟩

/-! ## A DRAW that never ends (rule R129) -/

/-- The words of the list that are not excluded. -/
def usableWords (p : Platform) : Finset Word := (p.wl.filter fun w => !p.excluded w).toFinset

theorem mem_usableWords {p : Platform} {w : Word} (hw : w ∈ p.wl) (hex : w ∉ p.ex) : w ∈ usableWords p := by
  simp [usableWords, hw, Platform.excluded, hex]

/-- The four words of an accepted candidate are four usable words. -/
theorem four_le_card_usableWords {s : State} (ha : s.accepted = true) (hlatched : ∀ k : Fin 4, s.latched k) :
    4 ≤ (usableWords s.platform).card := by
  have hmem (k : Fin 4) : s.qw.get k ∈ usableWords s.platform := by
    obtain ⟨-, hw⟩ := hlatched k
    exact mem_usableWords (List.mem_of_getElem? hw) (Safety.qw_not_excluded_of_accepted ha k)
  exact Finset.card_le_card_of_injOn s.qw.get (fun k _ => hmem k)
    (Safety.qw_injective_of_accepted ha).injOn (s := Finset.univ)

/-- A `DRAW` running without a cap on a list with too few usable words. -/
structure Hopeless (s : State) : Prop where
  inv : Inv s
  busy : s.busy = true
  resetIn : s.resetIn = false
  cap : s.cap = 0#32
  few : (usableWords s.platform).card < 4

theorem Hopeless.not_accepted {s : State} (h : Hopeless s) (hp : s.phase = .check) : s.accepted = false := by
  obtain ⟨-, -, hlatched⟩ := h.inv.check hp
  exact Bool.eq_false_iff.2 fun ha => Nat.not_lt.2 (four_le_card_usableWords ha hlatched) h.few

theorem Hopeless.step {s t : State} (h : Hopeless s) (hstep : step s = .next t) : Hopeless t := by
  have hi := Invariant.stepKeepsTheInvariant s t h.inv hstep
  have hb := h.busy
  cases step_cases hstep with
  | reset hr => exact Bool.noConfusion (hr.symm.trans h.resetIn)
  | idle _ hp | illegal _ hp | command _ hp | halt _ hp => simp [State.busy, Phase.busy, hp] at hb
  | accept _ hp ha => exact Bool.noConfusion (ha.symm.trans (h.not_accepted hp))
  | exhausted _ _ _ hc => exact absurd h.cap hc
  | _ => exact ⟨hi, rfl, h.resetIn, h.cap, h.few⟩

theorem Hopeless.run {s : State} (h : Hopeless s) (n : Nat) : ∃ t, run n s = .next t ∧ Hopeless t := by
  induction n generalizing s with
  | zero => exact ⟨s, rfl, h⟩
  | succ n ih =>
    obtain ⟨u, hu⟩ := Invariant.step_total h.inv
    rw [run_succ_of_next hu]
    exact ih (h.step hu)

/-- Settles O42: every step keeps the `DRAW` hopeless, and a running `DRAW` shows no quartet. -/
theorem drawNeverEndsWithoutFourWords : Obligations.DrawNeverEndsWithoutFourWords := by
  intro s n hi hb hr hc hfew
  obtain ⟨t, hrun, ht⟩ := Hopeless.run ⟨hi, hb, hr, hc, hfew⟩ n
  obtain ⟨-, -, hq⟩ := ht.inv.running ht.busy
  exact ⟨t, hrun, ht.busy, hq⟩

end Sys2Proof.Proofs.WholeDraw
end

section
namespace Sys2Proof.Proofs.Determinism

open Sys2Proof Sys2Proof.Machine

/-! ## The generator after SEEDI (40_seed.md rule R80) -/

theorem initInt_forgets (imm : Word32) (mt mt' : Mt) : initInt imm mt = initInt imm mt' := by
  rw [initInt, initInt, initMt_forgets imm mt mt']

/-- `SEEDI`, with its generator as a variable, so that no unification runs the seeding loop. -/
theorem step_seedi {s : State} {imm : Word32} {rest : List Cmd} (hp : s.phase = .idle) (hr : s.resetIn = false)
    (hq : s.pending = encode (.seedi imm) :: rest) {g : Gen} (hg : g = initInt imm s.mt) :
    step s = .next ((s.withPending rest).withGen g) := by
  rw [Acceptance.step_of_encoded hp hr hq, exec_seedi, State.withPending_mt, hg]

/-! ## A sequence of outputs (41_generate.md rule R107) -/

/-- What `NEXT32` and `NEXT31` write into `RES`. -/
def outputOf (g : Gen) : Instr → Word32
  | .next31 => g.nextUint31.1.setWidth 32
  | _ => g.nextUint32.1

/-- `RES` after a sequence of the two commands, from `v` before it. -/
def resAfter (g : Gen) (v : Word32) : List Instr → Word32
  | [] => v
  | i :: is => resAfter g.nextUint32.2 (outputOf g i) is

theorem resAfter_of_ne_nil {is : List Instr} (h : is ≠ []) (g : Gen) (v v' : Word32) :
    resAfter g v is = resAfter g v' is := by
  cases is with
  | nil => exact absurd rfl h
  | cons i is => rfl

theorem exec_output {s : State} {g : Gen} {i : Instr} (hi : i = .next32 ∨ i = .next31) (hg : s.gen? = some g) :
    exec i s = .next ((s.withGen g.nextUint32.2).withRes (outputOf g i)) := by
  obtain rfl | rfl := hi
  · exact execNext32_seeded hg
  · exact execNext31_seeded hg

theorem run_outputs {is : List Instr} (his : ∀ i ∈ is, i = .next32 ∨ i = .next31) {s : State} {g : Gen}
    (hp : s.phase = .idle) (hr : s.resetIn = false) (hq : s.pending = is.map encode) (hg : s.gen? = some g) :
    ∃ t, run is.length s = .next t ∧ t.pending = [] ∧ t.phase = .idle ∧ t.gen? = some (g.after is.length) ∧
      t.res = resAfter g s.res is ∧ t.resv = (s.resv || !is.isEmpty) := by
  induction is generalizing s g with
  | nil => exact ⟨s, rfl, hq, hp, hg, rfl, (Bool.or_false _).symm⟩
  | cons i is ih =>
    obtain ⟨hi, his⟩ := List.forall_mem_cons.1 his
    have hstep := (Acceptance.step_of_encoded hp hr hq).trans (exec_output (s := s.withPending _) hi hg)
    obtain ⟨t, hrun, hpending, hphase, hgen, hres, hresv⟩ := ih his
      (s := (((s.withPending (is.map encode)).withGen g.nextUint32.2).withRes (outputOf g i))) hp hr rfl rfl
    refine ⟨t, (run_succ_of_next hstep _).trans hrun, hpending, hphase, ?gen, hres, ?resv⟩
    case gen => rw [hgen, List.length_cons, Nat.add_comm, ← Attempts.after_add]; rfl
    case resv => rw [hresv, List.isEmpty_cons, Bool.not_false, Bool.or_true]; rfl

theorem run_seed_outputs {is : List Instr} (his : ∀ i ∈ is, i = .next32 ∨ i = .next31) {imm : Word32} {s : State}
    (hp : s.phase = .idle) (hr : s.resetIn = false) (hq : s.pending = (Instr.seedi imm :: is).map encode) {g : Gen}
    (hg : g = initInt imm s.mt) :
    ∃ t, run (is.length + 1) s = .next t ∧ t.pending = [] ∧ t.phase = .idle ∧ t.gen? = some (g.after is.length) ∧
      t.res = resAfter g s.res is ∧ t.resv = (s.resv || !is.isEmpty) := by
  rw [run_succ_of_next (step_seedi hp hr hq hg)]
  exact run_outputs his (s := (s.withPending (is.map encode)).withGen g) hp hr rfl (gen?_withGen _ g)

/-- Settles O32: both runs end with the generator and the result that the seed's generator gives. -/
theorem outputsDependOnTheSeedAlone : Obligations.OutputsDependOnTheSeedAlone := by
  intro imm is s₁ s₂ his hp₁ hp₂ hr₁ hr₂ hq₁ hq₂
  obtain ⟨t₁, hrun₁, hpending₁, hphase₁, hgen₁, hres₁, hresv₁⟩ := run_seed_outputs his hp₁ hr₁ hq₁ rfl
  obtain ⟨t₂, hrun₂, hpending₂, hphase₂, hgen₂, hres₂, hresv₂⟩ :=
    run_seed_outputs his hp₂ hr₂ hq₂ (initInt_forgets imm s₁.mt s₂.mt)
  obtain ⟨hmt₁, hcursor₁⟩ := (gen?_eq_some_iff t₁ _).1 hgen₁
  obtain ⟨hmt₂, hcursor₂⟩ := (gen?_eq_some_iff t₂ _).1 hgen₂
  refine ⟨t₁, t₂, hrun₁, hrun₂, hpending₁, hpending₂, hphase₁, hphase₂, hmt₁.trans hmt₂.symm,
    hcursor₁.trans hcursor₂.symm, fun hne => ?_⟩
  have hshown₁ : t₁.resv = true := by simp [hresv₁, hne]
  have hshown₂ : t₂.resv = true := by simp [hresv₂, hne]
  have hsame : t₁.res = t₂.res := hres₁.trans ((resAfter_of_ne_nil hne _ _ _).trans hres₂.symm)
  rw [Ports.resPort_of_resv hshown₁, Ports.resPort_of_resv hshown₂, hsame]
  exact ⟨rfl, hshown₁⟩

/-! ## Two blocks in the same DRAW (42_draw.md rule R132) -/

/-- Slot `k` of both blocks holds the same. -/
def SameSlot (u v : State) (k : Fin 4) : Prop := u.idx.get k = v.idx.get k ∧ u.qw.get k = v.qw.get k

/-- Two blocks that agree on all that a `DRAW` reads and shows, the slots as far as they have been filled. -/
structure SameDraw (u v : State) : Prop where
  gen : u.gen? = v.gen?
  platform : u.platform = v.platform
  cap : u.cap = v.cap
  att : u.att = v.att
  phase : u.phase = v.phase
  slot : u.slot = v.slot
  fault : u.fault = v.fault
  qvalid : u.qvalid = v.qvalid
  fcmd : u.phase = .halt → u.fcmd = v.fcmd
  /-- In WARM no slot is filled yet, in FILL those before `SLOT` are, and otherwise all four. -/
  slots : u.phase ≠ .warm → ∀ k : Fin 4, (u.phase = .fill → k < u.slot) → SameSlot u v k
  /-- A running `DRAW` shows no quartet. -/
  hidden : u.busy = true → u.qvalid = false
  /-- No further command and no reset comes. -/
  quiet : u.pending = [] ∧ u.resetIn = false ∧ v.pending = [] ∧ v.resetIn = false

section Step

variable {u v : State} (h : SameDraw u v)

include h

theorem SameDraw.accepted (hp : u.phase = .check) : v.accepted = u.accepted := by
  have hqw (k : Fin 4) : v.qw.get k = u.qw.get k :=
    (h.slots (hp ▸ nofun) k (fun e => Phase.noConfusion (hp.symm.trans e))).2.symm
  rw [State.accepted, State.accepted, hqw, hqw, hqw, hqw, h.platform]

/-- Both blocks latch the same word, in the same slot. -/
theorem SameDraw.latch (hp : u.phase = .fill) (q : BitVec 31) (w : Word) {k : Fin 4} (hk : k ≤ u.slot) :
    SameSlot (u.latch q w) (v.latch q w) k := by
  obtain rfl | hlt := hk.eq_or_lt
  · simp [SameSlot, Vector.get_eq_getElem, ← h.slot]
  · have hne : u.slot.val ≠ k.val := Fin.val_ne_of_ne hlt.ne'
    have hsame := h.slots (hp ▸ nofun) k fun _ => hlt
    simpa [SameSlot, Vector.get_eq_getElem, ← h.slot, hne] using hsame

theorem SameDraw.step {u' : State} (hstep : step u = .next u') : ∃ v', step v = .next v' ∧ SameDraw u' v' := by
  obtain ⟨hq, hr, hq', hr'⟩ := h.quiet
  cases step_cases hstep with
  | reset e => exact Bool.noConfusion (e.symm.trans hr)
  | illegal _ _ w rest e | command _ _ w rest e => exact absurd (hq.symm.trans e) (List.cons_ne_nil w rest).symm
  | idle _ hp => exact ⟨v, step_of_idle_none hr' (h.phase ▸ hp) hq', h⟩
  | halt _ hp => exact ⟨v, step_of_halt hr' (h.phase ▸ hp), h⟩
  | warmLast _ hp g hg hs =>
    refine ⟨_, (step_of_warm hr' (h.phase ▸ hp)).trans (warmStep_last (h.gen ▸ hg) (h.slot ▸ hs)), ?_⟩
    exact { h with
      gen := rfl, phase := rfl, slot := rfl, fcmd := nofun
      slots := fun _ k hk => absurd (hk rfl) (Fin.not_lt_zero k)
      hidden := fun _ => h.hidden (Invariant.busy_of_phase hp rfl) }
  | warm _ hp g hg hs =>
    refine ⟨_, (step_of_warm hr' (h.phase ▸ hp)).trans (warmStep_next (h.gen ▸ hg) (h.slot ▸ hs)), ?_⟩
    exact { h with
      gen := rfl, phase := rfl, slot := congrArg (· + 1) h.slot, fcmd := nofun
      slots := fun e => absurd rfl e
      hidden := fun _ => h.hidden (Invariant.busy_of_phase hp rfl) }
  | fillLast _ hp g hg w hw hs =>
    rw [h.platform] at hw ⊢
    refine ⟨_, (step_of_fill hr' (h.phase ▸ hp)).trans (fillStep_last (h.gen ▸ hg) hw (h.slot ▸ hs)), ?_⟩
    exact { h with
      gen := rfl, phase := rfl, att := congrArg attSucc h.att, fcmd := nofun
      slots := fun _ k _ => h.latch hp _ w (hs ▸ k.le_last)
      hidden := fun _ => h.hidden (Invariant.busy_of_phase hp rfl) }
  | fill _ hp g hg w hw hs =>
    rw [h.platform] at hw ⊢
    refine ⟨_, (step_of_fill hr' (h.phase ▸ hp)).trans (fillStep_next (h.gen ▸ hg) hw (h.slot ▸ hs)), ?_⟩
    exact { h with
      gen := rfl, phase := rfl, slot := congrArg (· + 1) h.slot, fcmd := nofun
      slots := fun _ k hk => h.latch hp _ w (Invariant.le_of_lt_slot_succ hs (hk rfl))
      hidden := fun _ => h.hidden (Invariant.busy_of_phase hp rfl) }
  | accept _ hp ha =>
    refine ⟨_, (step_of_check hr' (h.phase ▸ hp)).trans (checkStep_accept ((h.accepted hp).trans ha)), ?_⟩
    exact { h with
      phase := rfl, qvalid := rfl, fcmd := nofun, hidden := nofun
      slots := fun _ k _ => h.slots (hp ▸ nofun) k (hp ▸ nofun) }
  | exhausted _ hp ha hc hn =>
    refine ⟨_, (step_of_check hr' (h.phase ▸ hp)).trans
      (checkStep_exhausted ((h.accepted hp).trans ha) (h.cap ▸ hc) (h.cap ▸ h.att ▸ hn)), ?_⟩
    exact { h with
      phase := rfl, fault := rfl, fcmd := fun _ => rfl, hidden := nofun
      slots := fun _ k _ => h.slots (hp ▸ nofun) k (hp ▸ nofun) }
  | redraw _ hp ha hc =>
    refine ⟨_, (step_of_check hr' (h.phase ▸ hp)).trans
      (checkStep_redraw ((h.accepted hp).trans ha) (h.cap ▸ h.att ▸ hc)), ?_⟩
    exact { h with
      phase := rfl, slot := rfl, fcmd := nofun
      slots := fun _ k hk => absurd (hk rfl) (Fin.not_lt_zero k)
      hidden := fun _ => h.hidden (Invariant.busy_of_phase hp rfl) }

end Step

/-- A run that answers a next state has answered one at its first step. -/
theorem exists_step_of_run_succ {s t : State} {n : Nat} (h : Machine.run (n + 1) s = .next t) :
    ∃ u, Machine.step s = .next u ∧ Machine.run n u = .next t := by
  cases hu : Machine.step s with
  | next u => exact ⟨u, rfl, run_succ_of_next hu n ▸ h⟩
  | fault r | refused r =>
    have hcore : Sys2Proof.core.step s = _ := hu
    simp [Machine.run, Host.Core.run, hcore] at h

theorem SameDraw.run {u v u' : State} (h : SameDraw u v) {n : Nat} (hrun : run n u = .next u') :
    ∃ v', run n v = .next v' ∧ SameDraw u' v' := by
  induction n generalizing u v with
  | zero =>
    obtain rfl : u = u' := Host.Outcome.next.inj hrun
    exact ⟨v, rfl, h⟩
  | succ n ih =>
    obtain ⟨w, hw, hrun⟩ := exists_step_of_run_succ hrun
    obtain ⟨x, hx, hwx⟩ := h.step hw
    rw [run_succ_of_next hx]
    exact ih hwx hrun

theorem SameDraw.fcmdPort {u v : State} (h : SameDraw u v) : u.fcmdPort = v.fcmdPort := by
  by_cases hp : u.phase = .halt
  · rw [Ports.fcmdPort_of_halt hp, Ports.fcmdPort_of_halt (h.phase ▸ hp), h.fcmd hp]
  · rw [Ports.fcmdPort_of_not_halt hp, Ports.fcmdPort_of_not_halt (h.phase ▸ hp)]

/-- The slots are shown only when all four were filled. -/
theorem SameDraw.slotPorts {u v : State} (h : SameDraw u v) (k : Fin 4) :
    u.idxPort k = v.idxPort k ∧ u.qwPort k = v.qwPort k := by
  have hv := h.qvalid
  cases hu : u.qvalid with
  | false =>
    rw [hu] at hv
    rw [Ports.idxPort_of_not_qvalid hu, Ports.idxPort_of_not_qvalid hv.symm, Ports.qwPort_of_not_qvalid hu,
      Ports.qwPort_of_not_qvalid hv.symm]
    exact ⟨rfl, rfl⟩
  | true =>
    rw [hu] at hv
    have hidle {p : Phase} (hb : p.busy = true) : u.phase ≠ p := fun hp =>
      Bool.noConfusion (hu.symm.trans (h.hidden (Invariant.busy_of_phase hp hb)))
    obtain ⟨hidx, hqw⟩ := h.slots (hidle rfl) k fun hp => absurd hp (hidle rfl)
    rw [Ports.idxPort_of_qvalid hu, Ports.idxPort_of_qvalid hv.symm, Ports.qwPort_of_qvalid hu,
      Ports.qwPort_of_qvalid hv.symm, hidx, hqw]
    exact ⟨rfl, rfl⟩

/-- The two commands lead into the warm-up, with nothing left on the port. -/
theorem run_seed_draw {s : State} {imm : Word32} (hp : s.phase = .idle) (hr : s.resetIn = false)
    (hq : s.pending = [encode (.seedi imm), encode .draw]) (hl : s.platform.len ≠ 0) {g : Gen}
    (hg : g = initInt imm s.mt) : run 2 s = .next ((s.withGen g).withPending []).beginDraw := by
  have hdraw := (Acceptance.step_of_encoded (s := (s.withPending [encode .draw]).withGen g) hp hr rfl).trans
    (execDraw_begins (s := (s.withGen g).withPending []) (gen?_withGen s g) hl)
  rw [run_succ_of_next (step_seedi hp hr hq hg), run_succ_of_next hdraw, run_zero]

/-- A `DRAW` that begins reads the generator, the platform and the cap, and shows no old quartet. -/
theorem sameDraw_beginDraw {u v : State} (hgen : u.gen? = v.gen?) (hplatform : u.platform = v.platform)
    (hcap : u.cap = v.cap) (hfault : u.fault = v.fault) (hu : u.pending = [] ∧ u.resetIn = false)
    (hv : v.pending = [] ∧ v.resetIn = false) : SameDraw u.beginDraw v.beginDraw where
  gen := hgen
  platform := hplatform
  cap := hcap
  att := rfl
  phase := rfl
  slot := rfl
  fault := hfault
  qvalid := rfl
  fcmd := nofun
  slots h := absurd rfl h
  hidden _ := rfl
  quiet := ⟨hu.1, hu.2, hv⟩

/-- Settles O52: the acceptance of the `DRAW` leaves both blocks in the same `DRAW`, and every step keeps them there. -/
theorem drawAfterSeedShowsTheSame : Obligations.DrawAfterSeedShowsTheSame := by
  intro imm n s₁ s₂ t₁ t₂ hp₁ hp₂ hr₁ hr₂ hfault hplatform hl hcap hq₁ hq₂ hrun₁ hrun₂
  obtain ⟨g, hg⟩ : ∃ g, g = initInt imm s₁.mt := ⟨_, rfl⟩
  rw [run_add_of_next (run_seed_draw hp₁ hr₁ hq₁ hl hg)] at hrun₁
  rw [run_add_of_next (run_seed_draw hp₂ hr₂ hq₂ (hplatform ▸ hl) (hg.trans (initInt_forgets imm _ _)))] at hrun₂
  have hbegin : SameDraw ((s₁.withGen g).withPending []).beginDraw ((s₂.withGen g).withPending []).beginDraw :=
    sameDraw_beginDraw rfl hplatform hcap hfault ⟨rfl, hr₁⟩ ⟨rfl, hr₂⟩
  obtain ⟨t, hrun, h⟩ := hbegin.run hrun₁
  obtain rfl : t = t₂ := Host.Outcome.next.inj (hrun.symm.trans hrun₂)
  exact ⟨h.phase, h.att, h.fault, h.qvalid, h.fcmdPort, h.slotPorts⟩

end Sys2Proof.Proofs.Determinism
end
